-- ==== Sys2Proof/Word.lean ====
section
/-! DEFINITION. The words of the block: unsigned bit vectors of a stated width (00_scope.md rule R8).
Nothing here computes; arithmetic on a bit vector is modulo 2 to its width, as R8 says. -/

namespace Sys2Proof

/-- One byte: an entry of a serial FIFO, of DATA or of PROG (R22, R50). -/
abbrev Byte := BitVec 8

/-- A 16-bit value: LEN_W and ADDR_W (00_scope.md rule R6). -/
abbrev Half := BitVec 16

/-- A command word (30_encoding.md rule R71). -/
abbrev Word := BitVec 32

/-- The newline character, 0x0A (00_scope.md rule R10). -/
abbrev newline : Byte := 0x0A

end Sys2Proof
end

