-- ==== Sys2Proof/Config.lean ====
section
/-! DEFINITION. The parameters of the block (00_scope.md rule R6) and the free values of the model.
The parameters are OPEN in the spec, so they are fields of a record that State carries and no step changes
(notes/assumptions/1.md). The free values are constants without a body: nothing can be proved of one. -/

namespace Sys2Proof

/-- The OPEN parameters of 00_scope.md rule R6. DATA_INIT and PROG_IMAGE are arguments of the reset
(`Machine.State.resetOf`), and BAUD is INIT's operand. -/
structure Config where
  /-- RX_K: log2 of the receive FIFO's array size. -/
  rxK : Nat
  /-- TX_K: log2 of the transmit FIFO's array size. -/
  txK : Nat
  /-- GDEPTH: depth of each mainline guard save stack. -/
  gdepth : Nat
  /-- DELAY_MS: duration of one backpressure delay; it has no effect on any rule (R172). -/
  delayMs : Nat
  /-- LINE_IN: the bytes the remote sender offers, oldest first (R220); all of it when `lineEndless` is
  false, its first bytes when `lineEndless` is true. -/
  lineIn : List Byte
  /-- Whether LINE_IN is infinite (R220); the bytes after `lineIn` are then free values. -/
  lineEndless : Bool
  /-- CMD_STREAM: the application's command stream. -/
  cmdStream : List Word
  /-- k of the standalone ring-buffer instance on port T (R100). -/
  testK : Nat
  /-- W of the standalone ring-buffer instance on port T (R100). -/
  testW : Nat
  deriving DecidableEq, Repr

/-- FREE VALUE (notes/assumptions/2.md): the scheduler's choice at its n-th transition, where State's own
schedule does not settle it. The spec leaves the choice open (10_state.md rule R33). -/
opaque Config.freeTurn : Nat → Nat

/-- FREE VALUE (notes/assumptions/3.md): byte i of an infinite LINE_IN, past the bytes the configuration
lists (60_exceptions.md rule R220). -/
opaque Config.lineTail : Nat → Byte

/-- `LINE_IN[i]`, none where i is at or past the length of a finite LINE_IN (60_exceptions.md rule R221). -/
def Config.lineAt (c : Config) (i : Nat) : Option Byte :=
  match c.lineIn[i]? with
  | some b => some b
  | none => if c.lineEndless then some (Config.lineTail i) else none

end Sys2Proof
end

