-- ==== Sys2Proof/Syntax.lean ====
section
/-! DEFINITION. The commands of the block as syntax: one constructor per row of the opcode map
(30_encoding.md rule R79), with the operands of rule R76, and the three pseudo-instructions of rule R82. -/

namespace Sys2Proof

/-- A guard or interrupt source: receive-ready or transmit-ready (41_guards.md rule R120; the F bit of R71). -/
inductive Source where
  | rx
  | tx
  deriving DecidableEq, Repr

/-- The two address spaces (20_memory.md rule R50; the S bit of R71). -/
inductive Space where
  | data
  | prog
  deriving DecidableEq, Repr

/-- The three ports a command word can be presented on (30_encoding.md rule R70). -/
inductive Port where
  | portM
  | portI
  | portT
  deriving DecidableEq, Repr

/-- The fifteen commands. Operand names follow the opcode map: `v` the element, `f` the source,
`a` the buffer address, `n` the length or baud setting, `t` the terminator, `sp` the byte-source space. -/
inductive Instr where
  | rbWrite (v : Half)
  | rbRead
  | rbCount
  | rbIsfull
  | rbIsempty
  | csDisable (f : Source)
  | csRestore (f : Source)
  | rxAvail
  | rxLineAvail
  | rxReadUntil (a n : Half) (t : Byte)
  | rxReadExact (a n : Half)
  | txWrite (sp : Space) (a n : Half)
  | rxIsr
  | txIsr
  | init (n : Half)
  deriving DecidableEq, Repr

/-- The issuer class of a command (30_encoding.md rule R75). -/
def Instr.port : Instr → Port
  | .rbWrite _ | .rbRead | .rbCount | .rbIsfull | .rbIsempty => .portT
  | .rxIsr | .txIsr => .portI
  | .csDisable _ | .csRestore _ | .rxAvail | .rxLineAvail | .rxReadUntil _ _ _ | .rxReadExact _ _
  | .txWrite _ _ _ | .init _ => .portM

/-- Whether a command is INIT, the one command not refused while INITED = 0 (10_state.md rule R32). -/
def Instr.isInit : Instr → Bool
  | .init _ => true
  | .rbWrite _ | .rbRead | .rbCount | .rbIsfull | .rbIsempty | .rxIsr | .txIsr
  | .csDisable _ | .csRestore _ | .rxAvail | .rxLineAvail | .rxReadUntil _ _ _ | .rxReadExact _ _
  | .txWrite _ _ _ => false

/-- `RX_READ a, n` is `RX_READ_UNTIL a, n, 0` (30_encoding.md rule R82). -/
abbrev Instr.rxRead (a n : Half) : Instr := .rxReadUntil a n 0

/-- `RX_READ_LINE a, n` is `RX_READ_UNTIL a, n, '\n'` (30_encoding.md rule R82). -/
abbrev Instr.rxReadLine (a n : Half) : Instr := .rxReadUntil a n newline

/-- `TX_WRITE_STRING sp:a` is `TX_WRITE sp:a, 0` (30_encoding.md rule R82). -/
abbrev Instr.txWriteString (sp : Space) (a : Half) : Instr := .txWrite sp a 0

end Sys2Proof
end

