-- ==== Sys2Proof/WellFormed.lean ====
section
/-! DEFINITION. Well-formed commands and accepted configurations. -/

namespace Sys2Proof

/-- A command is well formed for an element width W when every operand fits its field. Only RB_WRITE's
operand can fail to: IMM16[15:W] must be 0 (30_encoding.md rule R76). Every other operand has its field's type. -/
def Instr.wf (W : Nat) : Instr → Bool
  | .rbWrite v => decide (v.toNat < 2 ^ W)
  | .rbRead | .rbCount | .rbIsfull | .rbIsempty | .csDisable _ | .csRestore _ | .rxAvail | .rxLineAvail
  | .rxReadUntil _ _ _ | .rxReadExact _ _ | .txWrite _ _ _ | .rxIsr | .txIsr | .init _ => true

/-- The block's configuration is accepted (00_scope.md rule R6): 1 <= RX_K, TX_K <= 8, GDEPTH >= 1 and a
CMD_STREAM of at most 2^16 words. -/
def Config.blockOk (c : Config) : Bool :=
  decide (1 ≤ c.rxK) && decide (c.rxK ≤ 8) && decide (1 ≤ c.txK) && decide (c.txK ≤ 8) &&
    decide (1 ≤ c.gdepth) && decide (c.cmdStream.length ≤ 65536)

/-- The standalone instance's configuration is accepted (R6, R100): 1 <= k <= 8 and 1 <= W <= 16. -/
def Config.testOk (c : Config) : Bool :=
  decide (1 ≤ c.testK) && decide (c.testK ≤ 8) && decide (1 ≤ c.testW) && decide (c.testW ≤ 16)

end Sys2Proof
end

