-- ==== Sys2Proof/Machine/State.lean ====
section
/-! DEFINITION. The state of the block (10_state.md rule R20), of the standalone ring-buffer instance
(40_ring_buffer.md rule R100) and of the line environment (R35), as plain data; why a step stops; and the state
after reset (R39). -/

namespace Sys2Proof.Machine

/-- A byte-addressed memory as (address, byte) pairs in ONE canonical form (`Memory.wf`): addresses strictly
rising, none above 0xFFFF, and no entry equal to what an unlisted address reads as (`Memory.unlisted`). -/
abbrev Memory := List Host.Cell

/-- What an unlisted address of DATA or PROG reads as. DESIGN CHOICE (notes/assumptions/4.md, unsafe):
DATA_INIT and PROG_IMAGE are OPEN in the spec, and a memory lists every byte of them that differs from 0. -/
abbrev Memory.unlisted : Byte := 0

/-- One ring-buffer instance with entries of w bits (10_state.md rule R21): the read index, the write index
and the backing array. Its k is a parameter, not state. -/
structure RB (w : Nat) where
  rd : Nat
  wr : Nat
  arr : List (BitVec w)
  deriving DecidableEq, Repr

/-- A constructed ring buffer with k: empty, RD = WR = 0 (R39). The entries' reset content is unspecified and
unobservable; zero is this model's DESIGN CHOICE (notes/assumptions/5.md). -/
def RB.reset (w k : Nat) : RB w := { rd := 0, wr := 0, arr := List.replicate (2 ^ k) 0 }

/-- The step labels of the microprograms (10_state.md rule R31, STEP): `l0` to `l5` are the labels L0 to L5
of R142, R144, R150 and R175, and `l3r0`, `l3r1`, `l3r2` are the steps L0, L1, L2 of RX_READ_UNTIL that
L3 of RX_READ_EXACT runs (R150). -/
inductive Label where
  | l0 | l1 | l2 | l3 | l4 | l5
  | l3r0 | l3r1 | l3r2
  deriving DecidableEq, Repr

/-- MODE (R31): 0 for binary and 1 for string. -/
inductive Mode where
  | binary
  | string
  deriving DecidableEq, Repr

/-- Agent M's micro-state (10_state.md rule R31). CNT is a natural number, because TX_WRITE counts with an
unbounded natural (R175); in the receive commands it is a 16-bit value (notes/assumptions/7.md). -/
structure Locals where
  cur0 : Word
  cur1 : Word
  label : Label
  busy : Bool
  p : Bool
  p2 : Bool
  cnt : Nat
  lim : Half
  c : Byte
  mode : Mode
  term : Byte
  addr : Half
  space : Space
  len : Half
  deriving DecidableEq, Repr

/-- The standalone ring-buffer instance (R100, R110): its ring buffer, its RES, its FCAUSE_T, and the words a
test harness has presented on port T and the instance has not yet taken, oldest first. -/
structure TestPort where
  rb : RB 16
  res : Half
  fcause : Byte
  input : List Word
  deriving DecidableEq, Repr

/-- Which transition the scheduler picks (10_state.md rule R33): a step of agent M, a handler run of agent I
for one of its two sources, a transfer of agent E in one of its two kinds (60_exceptions.md rule R220), or
a word of the standalone instance's port T (40_ring_buffer.md rule R110). -/
inductive Turn where
  | m
  | i (f : Source)
  | e (f : Source)
  | test
  deriving DecidableEq, Repr

/-- Everything the spec gives the machine. -/
structure State where
  /-- The configuration (R6): a parameter that no step changes. -/
  cfg : Config
  /-- RXF, the receive FIFO (R22). -/
  rxf : RB 8
  /-- TXF, the transmit FIFO (R22). -/
  txf : RB 8
  /-- NLCNT (R24). -/
  nlcnt : Byte
  /-- IER bit 0, RXIE (R25). -/
  rxie : Bool
  /-- IER bit 1, TXIE (R25). -/
  txie : Bool
  /-- STATUS bit 0, RXC (R26). -/
  rxc : Bool
  /-- STATUS bit 1, TXRDY (R26). -/
  txrdy : Bool
  /-- RXDR (R27). -/
  rxdr : Byte
  /-- TXDR (R27). -/
  txdr : Byte
  /-- BAUDCFG (R28). -/
  baudcfg : Half
  /-- INITED (R28). -/
  inited : Bool
  /-- RES (R29). -/
  res : Half
  /-- FCAUSE (R30). -/
  fcause : Byte
  /-- FWORD (R30). -/
  fword : Word
  /-- FADDR (R30). -/
  faddr : Half
  /-- REFUSED (R30). -/
  refused : Bool
  /-- GSTK_RX (R40): the saved bits of the open guards, innermost first; GSP_RX is its length. -/
  gstkRx : List Bool
  /-- GSTK_TX (R40): the saved bits of the open guards, innermost first; GSP_TX is its length. -/
  gstkTx : List Bool
  /-- CPC (R32): a word index into CMD_STREAM, never past its end. It does not wrap to 0 at the end of a stream of 2^16
  words (notes/assumptions/12.md). -/
  cpc : Nat
  /-- Agent M's micro-state (R31). -/
  loc : Locals
  /-- DATA (R50). -/
  data : Memory
  /-- PROG (R50). -/
  prog : Memory
  /-- LINE_OUT (R35), oldest first. -/
  lineOut : List Byte
  /-- RX_DROPPED (R35). -/
  rxDropped : Nat
  /-- LINE_LOST (R35). -/
  lineLost : Nat
  /-- LIN_POS (R35). -/
  linPos : Nat
  /-- The standalone instance (R100). -/
  test : TestPort
  /-- THE MODEL'S OWN: the transitions the scheduler has already settled on, next first
  (notes/assumptions/2.md). -/
  sched : List Turn
  /-- THE MODEL'S OWN: how many transitions have run, the argument of the free choice
  (notes/assumptions/2.md). -/
  turnNo : Nat
  deriving DecidableEq, Repr

/-- Why a step has no next state. None of these is a fault of the block: a fault of the block (R201) is a next
state, in which FCAUSE records it. -/
inductive Fault where
  /-- Raised by `step` where no agent has a step and agent M has ended without a fault: the run's final
  state (60_exceptions.md rule R227). Safe: the spec gives no further transition. -/
  | runEnded
  /-- Raised by `step` where no agent has a step and agent M is stopped by a recorded fault or refusal
  (R201, R227): not a final state, and nothing steps. Safe: the spec gives no further transition. -/
  | agentMStopped
  /-- Raised by the meaning of a multi-step command at a step label its microprogram does not have. Safe: no
  run reaches such a state (`Obligations.InvariantMeansProgress`), and the spec gives it no effect. -/
  | noSuchLabel
  /-- Raised by `step` where agent M is BUSY with words that are no command of port M. Safe: no run reaches
  such a state, because only a command that decodes is taken (R32). -/
  | busyWithoutCommand
  deriving DecidableEq, Repr

/-- What the model gives no meaning. -/
inductive Refusal where
  /-- Raised by `exec` for an instruction the model has not reached. Safe. No arm uses it. -/
  | notModelled (mnemonic : String)
  /-- Raised by `step` where the block's configuration is outside R6: it produces no run at all
  (60_exceptions.md rule R206). Safe: the spec gives it no transition. -/
  | blockConfig
  /-- Raised by `step` where only port T could step and the standalone instance's configuration is outside
  R100 (00_scope.md rule R6). Safe: the spec gives it no transition. -/
  | testPortConfig
  deriving DecidableEq, Repr

/-- Agent M's micro-state after reset: BUSY = 0 (R39). The other locals have no value at a command boundary
(R31), and no rule reads them there; zero is this model's DESIGN CHOICE (notes/assumptions/5.md). -/
def Locals.reset : Locals :=
  { cur0 := 0, cur1 := 0, label := .l0, busy := false, p := false, p2 := false, cnt := 0, lim := 0, c := 0,
    mode := .binary, term := 0, addr := 0, space := .data, len := 0 }

/-- The state after reset for a configuration and the contents of the two memories (R39). A configuration of the block
outside R6 is recorded as refused before any step (REFUSED_CONFIG, 0x83: R200, R206). A refused configuration of the
STANDALONE instance is recorded in no register: FCAUSE and REFUSED are the block's, and FCAUSE_T stays 0. Where R200's
record of it goes is this model's DESIGN CHOICE (notes/assumptions/18.md). RES, RXDR, TXDR and BAUDCFG are unspecified at
reset; zero is this model's DESIGN CHOICE (notes/assumptions/5.md). -/
def State.resetOf (cfg : Config) (dataInit progImage : Memory) : State :=
  { cfg := cfg
    rxf := RB.reset 8 cfg.rxK
    txf := RB.reset 8 cfg.txK
    nlcnt := 0
    rxie := false
    txie := false
    rxc := false
    txrdy := true
    rxdr := 0
    txdr := 0
    baudcfg := 0
    inited := false
    res := 0
    fcause := if cfg.blockOk then 0 else 0x83
    fword := 0
    faddr := 0
    refused := !cfg.blockOk
    gstkRx := []
    gstkTx := []
    cpc := 0
    loc := Locals.reset
    data := dataInit
    prog := progImage
    lineOut := []
    rxDropped := 0
    lineLost := 0
    linPos := 0
    test := { rb := RB.reset 16 cfg.testK, res := 0, fcause := 0, input := [] }
    sched := []
    turnNo := 0 }

/-- The configuration of `State.reset`. DESIGN CHOICE (notes/assumptions/6.md): every parameter of it is OPEN
in the spec. The FIFO sizes and the depth are those of the spec's test programs (95_test_vectors.md P4, S1), and
nothing is offered on the line, in the command stream or on port T. -/
def Config.chosen : Config :=
  { rxK := 3, txK := 2, gdepth := 2, delayMs := 1, lineIn := [], lineEndless := false, cmdStream := [],
    testK := 3, testW := 8 }

/-- The machine right after reset, under the chosen configuration and with both memories listing nothing. -/
def State.reset : State := State.resetOf Config.chosen [] []

end Sys2Proof.Machine
end

