-- ==== Sys2Proof/Machine/Flags.lean ====
section
/-! DEFINITION. Every flag the spec computes: the combinational outputs of a ring buffer (10_state.md rule R23),
the pending conditions (R36), when each agent is enabled (R32, R110, R211, R221, R222), and the register map as a
view (R25). -/

namespace Sys2Proof.Machine

/-! ## Outputs of a ring buffer -/

/-- COUNT_f = (WR - RD) & M, the k-bit modular subtraction (R23, R101; the mask is the modulus, R109). -/
def RB.count {w : Nat} (k : Nat) (f : RB w) : Nat := (f.wr + 2 ^ k - f.rd) % 2 ^ k

/-- EMPTY_f = (WR == RD) (R23, R105). -/
def RB.isEmpty {w : Nat} (f : RB w) : Bool := f.wr == f.rd

/-- FULL_f = (((WR + 1) & M) == RD) (R23, R104). -/
def RB.isFull {w : Nat} (k : Nat) (f : RB w) : Bool := (f.wr + 1) % 2 ^ k == f.rd

/-- A one-bit value zero-extended to 16 bits (R8, R29). -/
def bit16 (b : Bool) : Half := if b then 1 else 0

/-! ## The enable bits and the pending conditions -/

/-- IE(f): RXIE or TXIE (41_guards.md). -/
def State.ie (s : State) : Source → Bool
  | .rx => s.rxie
  | .tx => s.txie

/-- The status flag of a source: RXC or TXRDY (60_exceptions.md rule R210). -/
def State.ready (s : State) : Source → Bool
  | .rx => s.rxc
  | .tx => s.txrdy

/-- RX_PENDING and TX_PENDING (R36): level-sensitive and not latched. -/
def State.pending (s : State) (f : Source) : Bool := s.inited && s.ie f && s.ready f

/-! ## When a transition is enabled -/

/-- Agent M has a step: no fault or refusal is recorded, and a command is in progress or the stream holds
another (R30, R32). -/
def State.mEnabled (s : State) : Bool :=
  s.fcause == 0 && (s.loc.busy || decide (s.cpc < s.cfg.cmdStream.length))

/-- E_RX is enabled while LIN_POS < length(LINE_IN) (R221). -/
def State.eRxEnabled (s : State) : Bool := (s.cfg.lineAt s.linPos).isSome

/-- A transition is enabled. No agent of the block steps under a refused configuration (R200), and port T
takes no word under one of its own, nor after an illegal word (R110). -/
def State.enabled (s : State) : Turn → Bool
  | .m => s.cfg.blockOk && s.mEnabled
  | .i f => s.cfg.blockOk && s.pending f
  | .e .rx => s.cfg.blockOk && s.eRxEnabled
  | .e .tx => s.cfg.blockOk && !s.txrdy
  | .test => s.cfg.testOk && s.test.fcause == 0 && !s.test.input.isEmpty

/-- Every transition there is. -/
def Turn.all : List Turn := [.m, .i .rx, .i .tx, .e .rx, .e .tx, .test]

/-- The transitions enabled in a state. -/
def State.enabledTurns (s : State) : List Turn := Turn.all.filter s.enabled

/-- Agent M has ended: CPC has reached the end of CMD_STREAM with BUSY = 0 and no fault (R32, R227 (1)). -/
def State.mEnded (s : State) : Bool :=
  s.fcause == 0 && !s.loc.busy && decide (s.cfg.cmdStream.length ≤ s.cpc)

/-- The final state of a run (60_exceptions.md rule R227): agent M has ended, LINE_IN is finite and fully delivered,
neither interrupt is pending, and TXRDY = 1. -/
def State.isFinal (s : State) : Bool :=
  s.mEnded && !s.cfg.lineEndless && decide (s.cfg.lineIn.length ≤ s.linPos) && !s.pending .rx &&
    !s.pending .tx && s.txrdy

/-! ## The register map (R25) -/

/-- The registers of R25, by name. -/
inductive Reg where
  | ier | status | rxdr | txdr | nlcnt | baudcfg | inited | res | fcause | fword | faddr | gstkRx | gstkTx
  deriving DecidableEq, Repr

/-- The register's number (R25). -/
def Reg.number : Reg → Nat
  | .ier => 0x0
  | .status => 0x1
  | .rxdr => 0x2
  | .txdr => 0x3
  | .nlcnt => 0x4
  | .baudcfg => 0x5
  | .inited => 0x6
  | .res => 0x7
  | .fcause => 0x8
  | .fword => 0x9
  | .faddr => 0xA
  | .gstkRx => 0xB
  | .gstkTx => 0xC

/-- The register's width in bits (R25); a save stack has GDEPTH entries of one bit. -/
def Reg.width (gdepth : Nat) : Reg → Nat
  | .ier | .status => 2
  | .rxdr | .txdr | .nlcnt | .fcause => 8
  | .baudcfg | .res | .faddr => 16
  | .inited => 1
  | .fword => 32
  | .gstkRx | .gstkTx => gdepth

/-- A save stack as a number: bit i is the entry GSTK[i], i = 0 the outermost guard's; an entry at or above
the depth counter has no value and is given as 0 (R40). -/
def stackBits : List Bool → Nat
  | [] => 0
  | b :: rest => stackBits rest + (if b then 2 ^ rest.length else 0)

/-- The value of a register as its bits, bit 0 the least significant: IER = {TXIE, RXIE},
STATUS = {TXRDY, RXC} (R25). No command reads a register by number; this is a view for claims and tests. -/
def State.readReg (s : State) : Reg → Nat
  | .ier => s.txie.toNat * 2 + s.rxie.toNat
  | .status => s.txrdy.toNat * 2 + s.rxc.toNat
  | .rxdr => s.rxdr.toNat
  | .txdr => s.txdr.toNat
  | .nlcnt => s.nlcnt.toNat
  | .baudcfg => s.baudcfg.toNat
  | .inited => s.inited.toNat
  | .res => s.res.toNat
  | .fcause => s.fcause.toNat
  | .fword => s.fword.toNat
  | .faddr => s.faddr.toNat
  | .gstkRx => stackBits s.gstkRx
  | .gstkTx => stackBits s.gstkTx

/-- GSP_f, the depth counter of a save stack (R40). -/
def State.gsp (s : State) : Source → Nat
  | .rx => s.gstkRx.length
  | .tx => s.gstkTx.length

end Sys2Proof.Machine
end

