-- ==== Sys2Proof/Machine/Ops.lean ====
section
/-! DEFINITION. The named operations over registers, ring buffers, guards and memory, and the two ways the block
records a stop: raising a fault (60_exceptions.md rule R201) and refusing (R206). -/

namespace Sys2Proof.Machine

/-! ## Faults and refusals of the block -/

/-- The causes FCAUSE records (60_exceptions.md rule R200). -/
inductive Cause where
  | illegalCommand
  | accessFault
  | usageFault
  | refusedBeforeInit
  | refusedReinit
  | refusedConfig
  deriving DecidableEq, Repr

/-- The cause codes (R200). -/
def Cause.code : Cause → Byte
  | .illegalCommand => 0x01
  | .accessFault => 0x02
  | .usageFault => 0x03
  | .refusedBeforeInit => 0x81
  | .refusedReinit => 0x82
  | .refusedConfig => 0x83

/-- `raise Fault(cause, a)` (R201), THE ONE OPERATION THAT TAKES A FAULT: if FCAUSE = 0 it records the cause,
word 0 of the command, and the address. A recorded cause stops agent M for good (`State.mEnabled`), so BUSY, STEP and
CPC stay where they are, no guard is restored (R205), and no rule returns from a fault. -/
def raiseFault (c : Cause) (a : Half) (s : State) : State :=
  if s.fcause = 0 then { s with fcause := c.code, fword := s.loc.cur0, faddr := a } else s

/-- `refuse(reason)` (R206): REFUSED is set, and if FCAUSE = 0 the reason and word 0 are recorded. -/
def refuse (c : Cause) (s : State) : State :=
  if s.fcause = 0 then { s with refused := true, fcause := c.code, fword := s.loc.cur0 }
  else { s with refused := true }

/-! ## Control of a microprogram (00_scope.md rule R9) -/

/-- End of a step with STEP at the given label. -/
def goto (l : Label) (s : State) : State := { s with loc.label := l }

/-- `done`: BUSY <- 0 in the same step (R32). The other locals keep what they hold, and no rule reads
them at a command boundary (R31). -/
def finish (s : State) : State := { s with loc.busy := false }

/-! ## Ring buffers (40_ring_buffer.md) -/

/-- RB_WRITE (R102): the success flag and the ring buffer after it. -/
def RB.write {w : Nat} (k : Nat) (f : RB w) (v : BitVec w) : Bool × RB w :=
  if f.isFull k then (false, f)
  else (true, { f with arr := f.arr.set f.wr v, wr := (f.wr + 1) % 2 ^ k })

/-- RB_READ (R103): the value, 0 where the buffer is empty, and the ring buffer after it. -/
def RB.read {w : Nat} (k : Nat) (f : RB w) : BitVec w × RB w :=
  if f.isEmpty then (0, f)
  else (f.arr.getD f.rd 0, { f with rd := (f.rd + 1) % 2 ^ k })

/-- The buffered elements, oldest first: the entries between RD and WR (R37). -/
def RB.contents {w : Nat} (k : Nat) (f : RB w) : List (BitVec w) :=
  (List.range (f.count k)).map (fun i => f.arr.getD ((f.rd + i) % 2 ^ k) 0)

/-! ## Enable bits and guards (41_guards.md) -/

/-- IE(f) <- b: the one write of an enable bit; it never touches the other source's (R120). -/
def State.setIe (s : State) (f : Source) (b : Bool) : State :=
  match f with
  | .rx => { s with rxie := b }
  | .tx => { s with txie := b }

/-- `guard_enter(f)` (R121, microprogram form) is `p <- IE(f); IE(f) <- 0; return p`: this is the state
after it, and the returned bit is `s.ie f` before it. -/
def guardEnter (f : Source) (s : State) : State := s.setIe f false

/-- `guard_exit(f, p)` (R122, microprogram form). -/
def guardExit (f : Source) (p : Bool) (s : State) : State := s.setIe f p

/-- `ie_enable(f)` (R123): the enable bit is set whatever was captured. -/
def ieEnable (f : Source) (s : State) : State := s.setIe f true

/-- GSTK_f (R40), innermost guard first. -/
def State.gstk (s : State) : Source → List Bool
  | .rx => s.gstkRx
  | .tx => s.gstkTx

/-- Writing GSTK_f and, with it, GSP_f. -/
def State.setGstk (s : State) (f : Source) (l : List Bool) : State :=
  match f with
  | .rx => { s with gstkRx := l }
  | .tx => { s with gstkTx := l }

/-! ## Memory (20_memory.md) -/

/-- The byte a memory holds at an address. -/
def Memory.read : Memory → Nat → Byte
  | [], _ => Memory.unlisted
  | (b, v) :: rest, a => if b = a then v else Memory.read rest a

/-- Writing one byte; the canonical form is kept (writing what an unlisted address reads as removes the
entry). -/
def Memory.write : Memory → Nat → Byte → Memory
  | [], a, v => if v = Memory.unlisted then [] else [(a, v)]
  | (b, u) :: rest, a, v =>
    if a < b then (if v = Memory.unlisted then (b, u) :: rest else (a, v) :: (b, u) :: rest)
    else if a = b then (if v = Memory.unlisted then rest else (a, v) :: rest)
    else (b, u) :: Memory.write rest a v

/-- The highest address of either space (R50). -/
abbrev topAddress : Nat := 0xFFFF

/-- The canonical form, for the addresses from `low` on. -/
def Memory.wfFrom (low : Nat) : Memory → Bool
  | [] => true
  | (a, v) :: rest =>
    decide (low ≤ a) && decide (a ≤ topAddress) && decide (v ≠ Memory.unlisted) && Memory.wfFrom (a + 1) rest

/-- The canonical form: addresses strictly rising and in 0x0000..0xFFFF, no entry equal to what an unlisted
address reads as. -/
def Memory.wf (m : Memory) : Bool := m.wfFrom 0

/-- The memory of a space. -/
def State.mem (s : State) : Space → Memory
  | .data => s.data
  | .prog => s.prog

/-- `MemRead(space, a, 1)` (R52): `a` is an unbounded natural. Past the top of the space it is an access fault
with the address's low 16 bits, and never wraps. The read has no side effect. -/
def memRead (sp : Space) (a : Nat) (s : State) : Except Half Byte :=
  if a > topAddress then .error (BitVec.ofNat 16 a) else .ok ((s.mem sp).read a)

/-- `MemWrite(DATA, a, 1, v)` (R53). No write to PROG exists (R51). -/
def memWrite (a : Nat) (v : Byte) (s : State) : Except Half State :=
  if a > topAddress then .error (BitVec.ofNat 16 a) else .ok { s with data := s.data.write a v }

/-! ## The newline count (42_receive.md rules R141 and R146) -/

/-- NLCNT <- (NLCNT + 1) mod 256 where the byte is a newline. -/
def countNewline (b : Byte) (s : State) : State :=
  if b = newline then { s with nlcnt := s.nlcnt + 1 } else s

/-- NLCNT <- (NLCNT - 1) mod 256 where the byte is a newline, in both read modes (R146). -/
def uncountNewline (b : Byte) (s : State) : State :=
  if b = newline then { s with nlcnt := s.nlcnt - 1 } else s

end Sys2Proof.Machine
end

