-- ==== Sys2Proof/Machine/Operands.lean ====
section
/-! DEFINITION. The operand forms of the commands (30_encoding.md rules R76 and R77): the element of RB_WRITE,
the bytes of a buffer, the byte source of TX_WRITE, and the mode and limit that RX_READ_UNTIL's operands select. -/

namespace Sys2Proof.Machine

/-- RB_WRITE's element `v = IMM16[W-1:0]` (R76). -/
def elementOf (W : Nat) (v : Half) : Half := BitVec.ofNat 16 (v.toNat % 2 ^ W)

/-- The i-th byte of a buffer is at the unbounded sum ADDR + i (R77): a buffer never wraps. -/
def bufferByte (addr : Half) (i : Nat) : Nat := addr.toNat + i

/-- The mode a terminator selects (42_receive.md rule R145): binary for 0x00, string for any other. -/
def modeOf (t : Byte) : Mode := if t = 0 then .binary else .string

/-- LIM (R145): n in binary mode; n - 1 in string mode, which reserves one byte for the null. -/
def limitOf (t : Byte) (n : Half) : Half := if t = 0 then n else n - 1

/-- The source byte that TX_WRITE reads next: byte CNT of the pair (SPACE, ADDR) (43_transmit.md rule R173). -/
def sourceByte (s : State) : Except Half Byte :=
  memRead s.loc.space (bufferByte s.loc.addr s.loc.cnt) s

/-- Writing byte CNT of the DATA buffer at ADDR (42_receive.md rule R144). -/
def storeAtCnt (v : Byte) (s : State) : Except Half State :=
  memWrite (bufferByte s.loc.addr s.loc.cnt) v s

end Sys2Proof.Machine
end

