-- ==== Sys2Proof/Machine/Guards.lean ====
section
/-! DEFINITION. The mainline guards (41_guards.md rules R121 and R122), one atomic step each. -/

namespace Sys2Proof.Machine

/-- CS_DISABLE f (R121): USAGE_FAULT on a full save stack, before any state changes (R204); otherwise the
captured bit is pushed, the enable bit is cleared and the captured bit is the result. -/
def execCsDisable (f : Source) (s : State) : Host.Outcome State Fault Refusal :=
  if s.gsp f = s.cfg.gdepth then .next (raiseFault .usageFault 0 s)
  else
    let p := s.ie f
    .next (finish { ((s.setGstk f (p :: s.gstk f)).setIe f false) with res := bit16 p })

/-- CS_RESTORE f (R122): USAGE_FAULT with no open guard; otherwise the innermost captured bit is popped into
the enable bit. RES is unchanged. -/
def execCsRestore (f : Source) (s : State) : Host.Outcome State Fault Refusal :=
  match s.gstk f with
  | [] => .next (raiseFault .usageFault 0 s)
  | p :: rest => .next (finish ((s.setGstk f rest).setIe f p))

end Sys2Proof.Machine
end

