-- ==== Sys2Proof/Machine/Init.lean ====
section
/-! DEFINITION. INIT (44_init.md rule R190), one atomic step. -/

namespace Sys2Proof.Machine

/-- INIT (R190): a second INIT is refused (R191); otherwise BAUDCFG, the enable bits and INITED are written.
RES, the FIFOs, NLCNT, the guard stacks and STATUS are not touched (R192). -/
def execInit (n : Half) (s : State) : Host.Outcome State Fault Refusal :=
  if s.inited then .next (refuse .refusedReinit s)
  else .next (finish { s with baudcfg := n, rxie := true, txie := false, inited := true })

end Sys2Proof.Machine
end

