-- ==== Sys2Proof/Machine/Receive.lean ====
section
/-! DEFINITION. The receive pipeline (42_receive.md): the byte-received handler and the receive API. A meaning
is ONE atomic step: of a command, the step at agent M's label STEP (10_state.md rule R33). -/

namespace Sys2Proof.Machine

/-- RX_ISR (R141), one atomic step of agent I. -/
def execRxIsr (s : State) : Host.Outcome State Fault Refusal :=
  let b := s.rxdr
  let s1 : State := { s with rxc := false }
  if s1.rxf.isFull s1.cfg.rxK then .next { s1 with rxDropped := s1.rxDropped + 1 }
  else .next (countNewline b { s1 with rxf := (s1.rxf.write s1.cfg.rxK b).2 })

/-- RX_AVAIL (R142): three steps. -/
def execRxAvail (s : State) : Host.Outcome State Fault Refusal :=
  match s.loc.label with
  | .l0 => .next (goto .l1 (guardEnter .rx { s with loc.p := s.rxie }))
  | .l1 => .next (goto .l2 { s with loc.cnt := s.rxf.count s.cfg.rxK })
  | .l2 => .next (finish { guardExit .rx s.loc.p s with res := BitVec.ofNat 16 s.loc.cnt })
  | .l3 | .l4 | .l5 | .l3r0 | .l3r1 | .l3r2 => .fault .noSuchLabel

/-- RX_LINE_AVAIL (R143): one step, no guard. -/
def execRxLineAvail (s : State) : Host.Outcome State Fault Refusal :=
  .next (finish { s with res := bit16 (s.nlcnt != 0) })

/-- L0 of RX_READ_UNTIL (R144, R145, R147). String mode with n = 0 raises USAGE_FAULT before any state
changes (R204; notes/assumptions/9.md). -/
def readUntilEnter (a n : Half) (t : Byte) (next : Label) (s : State) : State :=
  if t ≠ 0 ∧ n = 0 then raiseFault .usageFault 0 s
  else
    goto next (guardEnter .rx
      { s with loc.addr := a, loc.term := t, loc.cnt := 0, loc.mode := modeOf t, loc.lim := limitOf t n,
               loc.p := s.rxie })

/-- One pass of L1 of RX_READ_UNTIL (R144): the limit, then emptiness, then one byte is consumed, its newline
uncounted (R146), and the byte either ends the drain as the terminator or is stored. Because the limit comes first (R144,
D18), a terminator that is exactly the n-th byte stays in RXF, where R149's words differ (notes/assumptions/8.md). -/
def readUntilPass (again out : Label) (s : State) : State :=
  if s.loc.cnt = s.loc.lim.toNat ∨ s.rxf.isEmpty then goto out s
  else
    let r := s.rxf.read s.cfg.rxK
    let s1 := uncountNewline r.1 { s with rxf := r.2, loc.c := r.1 }
    if s1.loc.mode = .string ∧ r.1 = s1.loc.term then goto out s1
    else
      match storeAtCnt r.1 s1 with
      | .error a => raiseFault .accessFault a s1
      | .ok s2 => goto again { s2 with loc.cnt := (s2.loc.cnt + 1) % 2 ^ 16 }

/-- L2 of RX_READ_UNTIL up to `done` (R144): the trailing null in string mode, the guard's exit, RES <- CNT.
An access fault of the null stops agent M where it stands: `.error` holds the state after the raise. -/
def readUntilExit (s : State) : Except State State :=
  match (if s.loc.mode = .string then storeAtCnt 0 s else .ok s) with
  | .error a => .error (raiseFault .accessFault a s)
  | .ok s1 => .ok { guardExit .rx s1.loc.p s1 with res := BitVec.ofNat 16 s1.loc.cnt }

/-- RX_READ_UNTIL (R144). -/
def execRxReadUntil (a n : Half) (t : Byte) (s : State) : Host.Outcome State Fault Refusal :=
  match s.loc.label with
  | .l0 => .next (readUntilEnter a n t .l1 s)
  | .l1 => .next (readUntilPass .l1 .l2 s)
  | .l2 =>
    match readUntilExit s with
    | .error s1 => .next s1
    | .ok s1 => .next (finish s1)
  | .l3 | .l4 | .l5 | .l3r0 | .l3r1 | .l3r2 => .fault .noSuchLabel

/-- RX_READ_EXACT (R150): the poll at L0 to L2, then the exact guarded read, whose steps are L0 to L2 of
RX_READ_UNTIL in binary mode. -/
def execRxReadExact (a n : Half) (s : State) : Host.Outcome State Fault Refusal :=
  match s.loc.label with
  | .l0 => .next (goto .l1 (guardEnter .rx { s with loc.addr := a, loc.len := n, loc.p2 := s.rxie }))
  | .l1 => .next (goto .l2 { s with loc.cnt := s.rxf.count s.cfg.rxK })
  | .l2 => .next (goto (if s.loc.cnt < s.loc.len.toNat then .l0 else .l3r0) (guardExit .rx s.loc.p2 s))
  | .l3r0 => .next (readUntilEnter s.loc.addr s.loc.len 0 .l3r1 s)
  | .l3r1 => .next (readUntilPass .l3r1 .l3r2 s)
  | .l3r2 =>
    match readUntilExit s with
    | .error s1 => .next s1
    | .ok s1 => .next (finish { s1 with res := bit16 (s1.loc.cnt == s1.loc.len.toNat) })
  | .l3 | .l4 | .l5 => .fault .noSuchLabel

end Sys2Proof.Machine
end

