-- ==== Sys2Proof/Decode.lean ====
section
/-! DEFINITION. Decoding of command words (30_encoding.md rules R71 to R79), and after it the encoder.
Decoding is total and rejects by name; every rejection is the one cause ILLEGAL_COMMAND (R72). -/

namespace Sys2Proof

/-- The rows of the opcode map (R79), without operands. -/
inductive Opcode where
  | rbWrite | rbRead | rbCount | rbIsfull | rbIsempty
  | csDisable | csRestore
  | rxAvail | rxLineAvail | rxReadUntil | rxReadExact
  | txWrite
  | rxIsr | txIsr
  | init
  deriving DecidableEq, Repr

/-- Which check of R72 a word fails. -/
inductive DecodeError where
  /-- OPC selects no row of R79. -/
  | unassignedOpcode
  /-- The port is not in the row's issuer set (R75). -/
  | wrongPort
  /-- A bit of word 0 that the row fixes is wrong. -/
  | fixedBitsOfWord0
  /-- A bit of word 1 that the row fixes is wrong. -/
  | fixedBitsOfWord1
  deriving DecidableEq, Repr

/-! Fields of word 0 (format C) and word 1 (format A), R71. -/

/-- OPC = word 0 bits 31:24. -/
def opcField (w0 : Word) : Byte := w0.extractLsb' 24 8
/-- S = word 0 bit 23. -/
def sField (w0 : Word) : Bool := w0.getLsbD 23
/-- F = word 0 bit 22. -/
def fField (w0 : Word) : Bool := w0.getLsbD 22
/-- IMM16 = word 0 bits 15:0. -/
def immField (w0 : Word) : Half := w0.extractLsb' 0 16
/-- TERM = word 1 bits 23:16. -/
def termField (w1 : Word) : Byte := w1.extractLsb' 16 8
/-- ADDR = word 1 bits 15:0. -/
def addrField (w1 : Word) : Half := w1.extractLsb' 0 16

/-- The rows in the order of R79. -/
def Opcode.all : List Opcode :=
  [.rbWrite, .rbRead, .rbCount, .rbIsfull, .rbIsempty, .csDisable, .csRestore, .rxAvail, .rxLineAvail,
    .rxReadUntil, .rxReadExact, .txWrite, .rxIsr, .txIsr, .init]

/-- The OPC column of R79. -/
def Opcode.opc : Opcode → Byte
  | .rbWrite => 0x10
  | .rbRead => 0x11
  | .rbCount => 0x12
  | .rbIsfull => 0x13
  | .rbIsempty => 0x14
  | .csDisable => 0x20
  | .csRestore => 0x21
  | .rxAvail => 0x30
  | .rxLineAvail => 0x31
  | .rxReadUntil => 0x32
  | .rxReadExact => 0x33
  | .txWrite => 0x40
  | .rxIsr => 0x50
  | .txIsr => 0x51
  | .init => 0x60

/-- The issuer column of R79: each row has exactly one issuer. -/
def Opcode.port : Opcode → Port
  | .rbWrite | .rbRead | .rbCount | .rbIsfull | .rbIsempty => .portT
  | .csDisable | .csRestore | .rxAvail | .rxLineAvail | .rxReadUntil | .rxReadExact | .txWrite | .init => .portM
  | .rxIsr | .txIsr => .portI

/-- The match0 column of R79. -/
def Opcode.match0 : Opcode → Word
  | .rbWrite => 0x10000000
  | .rbRead => 0x11000000
  | .rbCount => 0x12000000
  | .rbIsfull => 0x13000000
  | .rbIsempty => 0x14000000
  | .csDisable => 0x20000000
  | .csRestore => 0x21000000
  | .rxAvail => 0x30000000
  | .rxLineAvail => 0x31000000
  | .rxReadUntil => 0x32000000
  | .rxReadExact => 0x33000000
  | .txWrite => 0x40000000
  | .rxIsr => 0x50000000
  | .txIsr => 0x51000000
  | .init => 0x60000000

/-- The mask0 column of R79; RB_WRITE's depends on the element width:
`0xFFFF0000 | (0xFFFF & ~((1 << W) - 1))`. -/
def Opcode.mask0 (W : Nat) : Opcode → Word
  | .rbWrite => 0xFFFF0000#32 ||| (0xFFFF#32 &&& ~~~(BitVec.ofNat 32 (2 ^ W - 1)))
  | .csDisable | .csRestore => 0xFFBFFFFF
  | .rxReadUntil | .rxReadExact | .init => 0xFFFF0000
  | .txWrite => 0xFF7F0000
  | .rbRead | .rbCount | .rbIsfull | .rbIsempty | .rxAvail | .rxLineAvail | .rxIsr | .txIsr => 0xFFFFFFFF

/-- The mask1 column of R79 (match1 is 0 in every row); a one-word row fixes nothing in a word 1. -/
def Opcode.mask1 : Opcode → Word
  | .rxReadUntil => 0xFF000000
  | .rxReadExact | .txWrite => 0xFFFF0000
  | .rbWrite | .rbRead | .rbCount | .rbIsfull | .rbIsempty | .csDisable | .csRestore | .rxAvail | .rxLineAvail
  | .rxIsr | .txIsr | .init => 0

/-- The row OPC selects. -/
def opcodeOf (b : Byte) : Option Opcode := Opcode.all.find? (fun o => o.opc == b)

/-- `cmd_length` (R74): a function of OPC alone, 1 for every unassigned OPC. -/
def cmdLength (w0 : Word) : Nat :=
  if opcField w0 = 0x32 ∨ opcField w0 = 0x33 ∨ opcField w0 = 0x40 then 2 else 1

/-- The source the F bit selects (R76). -/
def sourceOf (f : Bool) : Source := if f then .tx else .rx

/-- The space the S bit selects (R76). -/
def spaceOf (s : Bool) : Space := if s then .prog else .data

/-- Operand assembly (R76): no immediate is sign-extended, scaled or shifted. -/
def Opcode.assemble (w0 w1 : Word) : Opcode → Instr
  | .rbWrite => .rbWrite (immField w0)
  | .rbRead => .rbRead
  | .rbCount => .rbCount
  | .rbIsfull => .rbIsfull
  | .rbIsempty => .rbIsempty
  | .csDisable => .csDisable (sourceOf (fField w0))
  | .csRestore => .csRestore (sourceOf (fField w0))
  | .rxAvail => .rxAvail
  | .rxLineAvail => .rxLineAvail
  | .rxReadUntil => .rxReadUntil (addrField w1) (immField w0) (termField w1)
  | .rxReadExact => .rxReadExact (addrField w1) (immField w0)
  | .txWrite => .txWrite (spaceOf (sField w0)) (addrField w1) (immField w0)
  | .rxIsr => .rxIsr
  | .txIsr => .txIsr
  | .init => .init (immField w0)

/-- Decoding of word 0, and of word 1 for a two-word command, on a port (R72): the row exists, the port may
issue it, every bit the row fixes has its fixed value. `W` is the element width of the standalone instance,
which only RB_WRITE's row depends on. -/
def decode (W : Nat) (p : Port) (w0 w1 : Word) : Except DecodeError Instr :=
  match opcodeOf (opcField w0) with
  | none => .error .unassignedOpcode
  | some o =>
    if o.port ≠ p then .error .wrongPort
    else if w0 &&& o.mask0 W ≠ o.match0 then .error .fixedBitsOfWord0
    else if w1 &&& o.mask1 ≠ 0 then .error .fixedBitsOfWord1
    else .ok (o.assemble w0 w1)

/-! The encoder, from the formats of R71 and the opcode column of R79. -/

/-- Word 0, format C: OPC, S, F, RSV0 = 0, IMM16. -/
def word0 (opc : Byte) (s f : Bool) (imm : Half) : Word :=
  opc ++ BitVec.ofBool s ++ BitVec.ofBool f ++ 0#6 ++ imm

/-- Word 1, format A: RSV1 = 0, TERM, ADDR. -/
def word1 (term : Byte) (addr : Half) : Word := 0#8 ++ term ++ addr

/-- The F bit of a source. -/
def Source.bit : Source → Bool
  | .rx => false
  | .tx => true

/-- The S bit of a space. -/
def Space.bit : Space → Bool
  | .data => false
  | .prog => true

/-- The words of a command, first word first. -/
def encode : Instr → List Word
  | .rbWrite v => [word0 0x10 false false v]
  | .rbRead => [word0 0x11 false false 0]
  | .rbCount => [word0 0x12 false false 0]
  | .rbIsfull => [word0 0x13 false false 0]
  | .rbIsempty => [word0 0x14 false false 0]
  | .csDisable f => [word0 0x20 false f.bit 0]
  | .csRestore f => [word0 0x21 false f.bit 0]
  | .rxAvail => [word0 0x30 false false 0]
  | .rxLineAvail => [word0 0x31 false false 0]
  | .rxReadUntil a n t => [word0 0x32 false false n, word1 t a]
  | .rxReadExact a n => [word0 0x33 false false n, word1 0 a]
  | .txWrite sp a n => [word0 0x40 sp.bit false n, word1 0 a]
  | .rxIsr => [word0 0x50 false false 0]
  | .txIsr => [word0 0x51 false false 0]
  | .init n => [word0 0x60 false false n]

/-- Decoding of exactly one command's words on a port; none where the words are not one command. -/
def decodeWords (W : Nat) (p : Port) : List Word → Option Instr
  | [w0] => if cmdLength w0 = 1 then (decode W p w0 0).toOption else none
  | [w0, w1] => if cmdLength w0 = 2 then (decode W p w0 w1).toOption else none
  | _ => none

/-- Word 0 of an instruction whose bits the host numbers from the first word's bit 0. -/
def tableWord0 (nbits w : Nat) : Word := BitVec.ofNat 32 (w % 2 ^ nbits)

/-- Word 1 of that instruction: bits 63:32, zero above nbits. -/
def tableWord1 (nbits w : Nat) : Word := BitVec.ofNat 32 (w % 2 ^ nbits / 2 ^ 32)

/-- The port that the word's row may be issued on; port M where there is no row. -/
def portOf (w0 : Word) : Port :=
  match opcodeOf (opcField w0) with
  | some o => o.port
  | none => .portM

/-- What the decoder reads from an instruction whose bits are w, on the port its row names and with the
element width W = 8 that the opcode table shows. A one-word command has no word 1. -/
def decodeTableWord (nbits w : Nat) : Option Instr :=
  let w0 := tableWord0 nbits w
  let w1 := if cmdLength w0 = 2 then tableWord1 nbits w else 0
  (decode 8 (portOf w0) w0 w1).toOption

end Sys2Proof
end

