-- ==== Sys2Proof/Machine/RingBuffer.lean ====
section
/-! DEFINITION. The ring-buffer primitives on port T (40_ring_buffer.md rules R101 to R105) and the words
port T takes (R110). On port T a primitive's result goes to the instance's own RES, zero-extended. -/

namespace Sys2Proof.Machine

/-- RES of the standalone instance. -/
def State.setTestRes (s : State) (v : Half) : State := { s with test.res := v }

/-- RB_WRITE (R102). -/
def execRbWrite (v : Half) (s : State) : Host.Outcome State Fault Refusal :=
  let r := s.test.rb.write s.cfg.testK (elementOf s.cfg.testW v)
  .next ({ s with test.rb := r.2 }.setTestRes (bit16 r.1))

/-- RB_READ (R103). -/
def execRbRead (s : State) : Host.Outcome State Fault Refusal :=
  let r := s.test.rb.read s.cfg.testK
  .next ({ s with test.rb := r.2 }.setTestRes r.1)

/-- RB_COUNT (R101). -/
def execRbCount (s : State) : Host.Outcome State Fault Refusal :=
  .next (s.setTestRes (BitVec.ofNat 16 (s.test.rb.count s.cfg.testK)))

/-- RB_ISFULL (R104). -/
def execRbIsfull (s : State) : Host.Outcome State Fault Refusal :=
  .next (s.setTestRes (bit16 (s.test.rb.isFull s.cfg.testK)))

/-- RB_ISEMPTY (R105). -/
def execRbIsempty (s : State) : Host.Outcome State Fault Refusal :=
  .next (s.setTestRes (bit16 s.test.rb.isEmpty))

/-- The front half of `T_STEP(w)` (R110): the oldest presented word is taken and decoded on port T. An
illegal word records ILLEGAL_COMMAND in FCAUSE_T and changes nothing else of the instance; a legal one is to run. -/
def takeTestWord (s : State) : State × Option Instr :=
  match s.test.input with
  | [] => (s, none)
  | w :: rest =>
    let s1 : State := { s with test.input := rest }
    match decode s.cfg.testW .portT w 0 with
    | .error _ => ({ s1 with test.fcause := Cause.code .illegalCommand }, none)
    | .ok i => (s1, some i)

end Sys2Proof.Machine
end

