-- ==== Sys2Proof/Machine/Transmit.lean ====
section
/-! DEFINITION. The transmit pipeline (43_transmit.md): the transmit-ready handler and TX_WRITE. A meaning is ONE
atomic step: of TX_WRITE, the step at agent M's label STEP (10_state.md rule R33). -/

namespace Sys2Proof.Machine

/-- TX_ISR (R171), one atomic step of agent I. -/
def execTxIsr (s : State) : Host.Outcome State Fault Refusal :=
  if s.txf.isEmpty then .next { s with txie := false }
  else
    let r := s.txf.read s.cfg.txK
    .next { s with txf := r.2, txdr := r.1, txrdy := false }

/-- `delay()` (R172): one atomic step of agent M that changes no state of its own. -/
def delay (s : State) : State := s

/-- L1 of TX_WRITE (R175): the end of a counted write, else the next source byte, whose null ends a string
write. -/
def txFetch (s : State) : State :=
  if s.loc.len ≠ 0 ∧ s.loc.cnt = s.loc.len.toNat then goto .l5 s
  else
    match sourceByte s with
    | .error a => raiseFault .accessFault a s
    | .ok b =>
      let s1 : State := { s with loc.c := b }
      if s1.loc.len = 0 ∧ b = 0 then goto .l5 s1 else goto .l2 s1

/-- L2 of TX_WRITE (R175): where TXF is full the transmit interrupt is re-enabled for the delay, else the byte
is enqueued and counted. -/
def txPush (s : State) : State :=
  if s.txf.isFull s.cfg.txK then goto .l3 (ieEnable .tx s)
  else goto .l1 { s with txf := (s.txf.write s.cfg.txK s.loc.c).2, loc.cnt := s.loc.cnt + 1 }

/-- TX_WRITE (R175). -/
def execTxWrite (sp : Space) (a n : Half) (s : State) : Host.Outcome State Fault Refusal :=
  match s.loc.label with
  | .l0 =>
    .next (goto .l1 (guardEnter .tx
      { s with loc.space := sp, loc.addr := a, loc.len := n, loc.cnt := 0, loc.p := s.txie }))
  | .l1 => .next (txFetch s)
  | .l2 => .next (txPush s)
  | .l3 => .next (goto .l4 (delay s))
  | .l4 => .next (goto .l2 (s.setIe .tx false))
  | .l5 =>
    .next (finish { ieEnable .tx (guardExit .tx s.loc.p s) with res := BitVec.ofNat 16 s.loc.cnt })
  | .l3r0 | .l3r1 | .l3r2 => .fault .noSuchLabel

end Sys2Proof.Machine
end

