-- ==== Sys2Proof/Machine/Dispatch.lean ====
section
/-! DEFINITION. One arm per constructor of Instr: each calls that command's meaning, which is ONE atomic step. -/

namespace Sys2Proof.Machine

def exec (i : Instr) (s : State) : Host.Outcome State Fault Refusal :=
  match i with
  | .rbWrite v => Sys2Proof.Machine.execRbWrite v s
  | .rbRead => Sys2Proof.Machine.execRbRead s
  | .rbCount => Sys2Proof.Machine.execRbCount s
  | .rbIsfull => Sys2Proof.Machine.execRbIsfull s
  | .rbIsempty => Sys2Proof.Machine.execRbIsempty s
  | .csDisable f => Sys2Proof.Machine.execCsDisable f s
  | .csRestore f => Sys2Proof.Machine.execCsRestore f s
  | .rxAvail => Sys2Proof.Machine.execRxAvail s
  | .rxLineAvail => Sys2Proof.Machine.execRxLineAvail s
  | .rxReadUntil a n t => Sys2Proof.Machine.execRxReadUntil a n t s
  | .rxReadExact a n => Sys2Proof.Machine.execRxReadExact a n s
  | .txWrite sp a n => Sys2Proof.Machine.execTxWrite sp a n s
  | .rxIsr => Sys2Proof.Machine.execRxIsr s
  | .txIsr => Sys2Proof.Machine.execTxIsr s
  | .init n => Sys2Proof.Machine.execInit n s

end Sys2Proof.Machine
end

