-- ==== Sys2Proof/Machine/Agents.lean ====
section
/-! DEFINITION. The transitions of the agents: agent M's command fetch and its microprogram steps (10_state.md rule
R32), agent I's dispatch (60_exceptions.md rule R211), agent E's transfers (R221, R222) and port T (40_ring_buffer.md
rule R110); and the scheduler's choice among them (R33). -/

namespace Sys2Proof.Machine

/-- Decoding of CUR0 and CUR1 on port M (R72). -/
def decodeCurrent (s : State) : Except DecodeError Instr :=
  decode s.cfg.testW .portM s.loc.cur0 s.loc.cur1

/-- The end of a fetch, with CUR0 and CUR1 loaded and n the command's length: decode, the refusal before INIT,
and taking the command (R32). -/
def takeCommand (n : Nat) (s : State) : State :=
  match decodeCurrent s with
  | .error _ => raiseFault .illegalCommand 0 s
  | .ok i =>
    if s.inited = false ∧ i.isInit = false then refuse .refusedBeforeInit s
    else { s with cpc := s.cpc + n, loc.busy := true, loc.label := .l0 }

/-- A step of agent M with BUSY = 0 (R32): the command fetch. -/
def fetch (s : State) : State :=
  match s.cfg.cmdStream[s.cpc]? with
  | none => s
  | some w0 =>
    let s1 : State := { s with loc.cur0 := w0 }
    let n := cmdLength w0
    if s.cpc + n > s.cfg.cmdStream.length then raiseFault .illegalCommand 0 s1
    else if n = 2 then takeCommand n { s1 with loc.cur1 := s.cfg.cmdStream.getD (s.cpc + 1) 0 }
    else takeCommand n s1

/-- A step of agent M (R32, R33): a fetch at a command boundary, else the current step of the command's
microprogram. -/
def mStep (s : State) : Host.Outcome State Fault Refusal :=
  if s.loc.busy then
    match decodeCurrent s with
    | .ok i => exec i s
    | .error _ => .fault .busyWithoutCommand
  else .next (fetch s)

/-- The handler agent I runs for a source (R210). Entry saves nothing, return restores nothing, and there is
no vector (R212, R213). -/
def handlerOf : Source → Instr
  | .rx => .rxIsr
  | .tx => .txIsr

/-- E_RX (R221): the next byte of the line is delivered, or lost where RXDR still holds an untaken byte. -/
def eRx (s : State) : State :=
  match s.cfg.lineAt s.linPos with
  | none => s
  | some b =>
    if s.rxc then { s with linPos := s.linPos + 1, lineLost := s.lineLost + 1 }
    else { s with linPos := s.linPos + 1, rxdr := b, rxc := true }

/-- E_TX (R222): the byte in TXDR goes out on the line. -/
def eTx (s : State) : State := { s with lineOut := s.lineOut ++ [s.txdr], txrdy := true }

/-- A word of port T (R110): an illegal word stops the instance, a legal one runs, in one atomic transition. -/
def tStep (s : State) : Host.Outcome State Fault Refusal :=
  match takeTestWord s with
  | (s1, some i) => exec i s1
  | (s1, none) => .next s1

/-- One atomic transition of the picked agent (R33). -/
def fire (t : Turn) (s : State) : Host.Outcome State Fault Refusal :=
  match t with
  | .m => mStep s
  | .i f => exec (handlerOf f) s
  | .e .rx => .next (eRx s)
  | .e .tx => .next (eTx s)
  | .test => tStep s

/-- The scheduler picks any enabled agent (R33): the one its schedule names next, where that one is enabled,
and otherwise a free choice among the enabled ones (notes/assumptions/2.md). -/
def nextTurn (s : State) : Option Turn :=
  let free := s.enabledTurns[Config.freeTurn s.turnNo % s.enabledTurns.length]?
  match s.sched with
  | [] => free
  | t :: _ => if s.enabled t then some t else free

/-- The scheduler's own bookkeeping of one transition. -/
def tick (s : State) : State := { s with sched := s.sched.tail, turnNo := s.turnNo + 1 }

/-- Why no agent has a step: a refused configuration (R206), a stopped agent M (R201), or the end of the run
(R227). -/
def noTurn (s : State) : Host.Outcome State Fault Refusal :=
  if !s.cfg.blockOk then .refused .blockConfig
  else if !s.cfg.testOk && !s.test.input.isEmpty then .refused .testPortConfig
  else if s.fcause ≠ 0 then .fault .agentMStopped
  else .fault .runEnded

end Sys2Proof.Machine
end

