-- ==== Sys2Proof/Machine/Step.lean ====
section
/-! DEFINITION. One step of the machine: one atomic transition of the agent the scheduler picks (10_state.md rule
R33). -/

namespace Sys2Proof.Machine

/-- One transition. -/
def step (s : State) : Host.Outcome State Fault Refusal :=
  match nextTurn s with
  | some t => fire t (tick s)
  | none => noTurn s

/-- CMD_STREAM with words laid at CPC; the words before it are kept, 0 where there are none. -/
def State.withStream (s : State) (ws : List Word) : State :=
  { s with cfg.cmdStream := (s.cfg.cmdStream ++ List.replicate s.cpc 0).take s.cpc ++ ws ++
                              s.cfg.cmdStream.drop (s.cpc + ws.length) }

/-- The state with an instruction's words placed where they are taken, so that the very next step runs it
(notes/assumptions/10.md): a port-T word is presented on port T; for a handler the source's pending condition
holds, because agent I forms the word itself; a port-M command stands in CMD_STREAM at CPC and, where its words are legal,
has just been taken by the fetch step that R32 puts before its first microprogram step. The schedule names the
port's agent next. -/
def State.withFetchWord (s : State) (nbits w : Nat) : State :=
  let w0 := tableWord0 nbits w
  let w1 := tableWord1 nbits w
  match portOf w0 with
  | .portT => { s with test.input := w0 :: s.test.input, test.fcause := 0, sched := .test :: s.sched }
  | .portI =>
    if opcodeOf (opcField w0) = some .rxIsr then
      { s with inited := true, rxie := true, rxc := true, sched := .i .rx :: s.sched }
    else { s with inited := true, txie := true, txrdy := true, sched := .i .tx :: s.sched }
  | .portM =>
    let n := cmdLength w0
    let s1 := s.withStream (if n = 2 then [w0, w1] else [w0])
    let s2 : State := { s1 with fcause := 0, sched := .m :: s.sched, loc.cur0 := w0, loc.busy := false }
    let s3 : State := if n = 2 then { s2 with loc.cur1 := w1 } else s2
    match decodeCurrent s3 with
    | .error _ => s2
    | .ok i =>
      { s3 with cpc := s.cpc + n, inited := s.inited || !i.isInit, loc.busy := true, loc.label := .l0 }

end Sys2Proof.Machine
end

