-- ==== Sys2Proof/Machine/Assembly.lean ====
section
/-! DEFINITION. The assembly language of 30_encoding.md rules R81 and R82: one command per line, the mnemonic first,
then its operands separated by commas. A pseudo-instruction expands into one command. -/

namespace Sys2Proof.Machine

/-- A token of an assembly line. -/
inductive Token where
  | word (cs : List Char)
  | char (code : Nat)
  | comma
  | colon
  deriving DecidableEq, Repr

/-- The word read so far, if there is one, before the tokens after it. -/
def endWord (acc : List Char) (ts : List Token) : List Token :=
  match acc with
  | [] => ts
  | _ => .word acc.reverse :: ts

/-- The tokens of a line; `acc` holds the word being read, last character first. A character literal stands for
its byte (R81), with `'\n'` = 0x0A and `'\0'` = 0x00 (00_scope.md rule R10). The spec gives ASCII bytes only; that any other
character stands for its Unicode code point is this model's DESIGN CHOICE (notes/assumptions/17.md). -/
def tokens (acc : List Char) : List Char → List Token
  | [] => endWord acc []
  | '\'' :: '\\' :: 'n' :: '\'' :: rest => endWord acc (.char 0x0A :: tokens [] rest)
  | '\'' :: '\\' :: '0' :: '\'' :: rest => endWord acc (.char 0x00 :: tokens [] rest)
  | '\'' :: c :: '\'' :: rest => endWord acc (.char c.toNat :: tokens [] rest)
  | c :: rest =>
    if c = ',' then endWord acc (.comma :: tokens [] rest)
    else if c = ':' then endWord acc (.colon :: tokens [] rest)
    else if c = ' ' then endWord acc (tokens [] rest)
    else tokens (c :: acc) rest

/-- The value of a digit in a base. -/
def digit (base : Nat) (c : Char) : Option Nat :=
  let d :=
    if '0' ≤ c ∧ c ≤ '9' then c.toNat - '0'.toNat
    else if 'a' ≤ c ∧ c ≤ 'f' then c.toNat - 'a'.toNat + 10
    else if 'A' ≤ c ∧ c ≤ 'F' then c.toNat - 'A'.toNat + 10
    else base
  if d < base then some d else none

/-- Digits in a base, most significant first, after a value read so far. -/
def digits (base n : Nat) : List Char → Option Nat
  | [] => some n
  | c :: rest =>
    match digit base c with
    | some d => digits base (base * n + d) rest
    | none => none

/-- A number is decimal or `0x` hexadecimal (R81). -/
def number : List Char → Option Nat
  | [] => none
  | ['0', 'x'] => none
  | '0' :: 'x' :: ds => digits 16 0 ds
  | ds => digits 10 0 ds

/-- The value of an operand below a bound. A number and a character literal are bounded alike, by the operand's width alone, so
a literal outside ASCII may exceed a byte: DESIGN CHOICE (notes/assumptions/17.md). -/
def operand (bound : Nat) (k : Token) : Option Nat :=
  let v :=
    match k with
    | .word cs => number cs
    | .char code => some code
    | .comma | .colon => none
  v.filter (· < bound)

/-- A 16-bit operand. -/
def halfOperand (k : Token) : Option Half := (operand 65536 k).map (BitVec.ofNat 16)

/-- An 8-bit operand. -/
def byteOperand (k : Token) : Option Byte := (operand 256 k).map (BitVec.ofNat 8)

/-- `rx` or `tx`. -/
def sourceOperand (k : Token) : Option Source :=
  if k = .word "rx".toList then some .rx else if k = .word "tx".toList then some .tx else none

/-- `data` or `prog`. -/
def spaceOperand (k : Token) : Option Space :=
  if k = .word "data".toList then some .data else if k = .word "prog".toList then some .prog else none

/-- The commands without operands. -/
def bareCommand (m : List Char) : Option Instr :=
  if m = "RB_READ".toList then some .rbRead
  else if m = "RB_COUNT".toList then some .rbCount
  else if m = "RB_ISFULL".toList then some .rbIsfull
  else if m = "RB_ISEMPTY".toList then some .rbIsempty
  else if m = "RX_AVAIL".toList then some .rxAvail
  else if m = "RX_LINE_AVAIL".toList then some .rxLineAvail
  else if m = "RX_ISR".toList then some .rxIsr
  else if m = "TX_ISR".toList then some .txIsr
  else none

/-- The commands with one plain operand. -/
def unaryCommand (m : List Char) (x : Token) : Option Instr :=
  if m = "RB_WRITE".toList then (halfOperand x).map .rbWrite
  else if m = "INIT".toList then (halfOperand x).map .init
  else if m = "CS_DISABLE".toList then (sourceOperand x).map .csDisable
  else if m = "CS_RESTORE".toList then (sourceOperand x).map .csRestore
  else none

/-- The commands and pseudo-instructions with a DATA buffer and a length. -/
def bufferCommand (m : List Char) (a n : Half) : Option Instr :=
  if m = "RX_READ_EXACT".toList then some (.rxReadExact a n)
  else if m = "RX_READ".toList then some (.rxRead a n)
  else if m = "RX_READ_LINE".toList then some (.rxReadLine a n)
  else none

/-- One assembly line (R81), pseudo-instructions expanded (R82); none where the line is no command. -/
def assemble (line : String) : Option Instr :=
  match tokens [] line.toList with
  | [.word m] => bareCommand m
  | [.word m, x] => unaryCommand m x
  | [.word m, x, .comma, y] => do bufferCommand m (← halfOperand x) (← halfOperand y)
  | [.word m, x, .comma, y, .comma, z] =>
    if m = "RX_READ_UNTIL".toList then
      do return .rxReadUntil (← halfOperand x) (← halfOperand y) (← byteOperand z)
    else none
  | [.word m, sp, .colon, x] =>
    if m = "TX_WRITE_STRING".toList then do return .txWriteString (← spaceOperand sp) (← halfOperand x)
    else none
  | [.word m, sp, .colon, x, .comma, y] =>
    if m = "TX_WRITE".toList then do return .txWrite (← spaceOperand sp) (← halfOperand x) (← halfOperand y)
    else none
  | _ => none

end Sys2Proof.Machine
end

