-- ==== Sys2Proof/Safety.lean ====
section
/-! DEFINITION. The terms claims are made in: transitions, runs and fairness (10_state.md rule R33, 60_exceptions.md
rule R223), what a run without a fault is (R206), and the invariants of the machine. -/

namespace Sys2Proof.Machine

/-! ## Transitions and runs -/

/-- One transition of the block: the scheduler may pick any enabled agent (R33). -/
def Trans (t : Turn) (s s' : State) : Prop := s.enabled t = true ∧ fire t s = .next s'

/-- The state after the listed transitions, in order; none where one of them is not enabled or has no next
state. -/
def runTurns : List Turn → State → Option State
  | [], s => some s
  | t :: ts, s =>
    if s.enabled t then
      match fire t s with
      | .next s' => runTurns ts s'
      | .fault _ | .refused _ => none
    else none

/-- The state after the listed commands' steps, in order; none where one has no next state. -/
def execAll : List Instr → State → Option State
  | [], s => some s
  | i :: is, s =>
    match exec i s with
    | .next s' => execAll is s'
    | .fault _ | .refused _ => none

/-- What a run starts from: reset under an accepted configuration and any contents of the two memories, with
any words presented on port T and any schedule (R39, R240, R242). -/
def Start (s : State) : Prop :=
  ∃ cfg dataInit progImage words turns,
    cfg.blockOk = true ∧ cfg.testOk = true ∧ Memory.wf dataInit = true ∧ Memory.wf progImage = true ∧
      s = { State.resetOf cfg dataInit progImage with test.input := words, sched := turns }

/-- The states that runs reach. -/
inductive Reachable : State → Prop
  | start {s : State} : Start s → Reachable s
  | next {s s' : State} : Reachable s → step s = .next s' → Reachable s'

/-- An infinite execution: the states and the transitions between them. -/
def IsExecution (states : Nat → State) (turns : Nat → Turn) : Prop :=
  ∀ n, Trans (turns n) (states n) (states (n + 1))

/-- The agents that R223 assumes weakly fair. -/
inductive FairAgent where
  | agentM
  | agentI
  | eTx
  deriving DecidableEq, Repr

/-- The transitions of an agent. -/
def FairAgent.owns : FairAgent → Turn → Bool
  | .agentM, t => t == .m
  | .agentI, t => t == .i .rx || t == .i .tx
  | .eTx, t => t == .e .tx

/-- Weak fairness (R223), "continuously enabled" taken as enabled in every state from some state on: such an agent eventually
steps. -/
def WeaklyFair (states : Nat → State) (turns : Nat → Turn) : Prop :=
  ∀ (g : FairAgent) (n : Nat), ∃ m, n ≤ m ∧
    (g.owns (turns m) = true ∨ ∀ t, g.owns t = true → (states m).enabled t = false)

/-- Fairness as 70_reset_and_hazards.md rule R252 takes R223 (DEDUCED, notes/assumptions/11.md): weak fairness, with agent I's
enabling judged over the passes of a spin-wait. A handler whose condition holds again and again, in every pass that opens
the enable bit, eventually runs. R252's claim and D33's reason for fairness both need this reading: both loops clear the enable
bit in every pass, so no condition holds without a break. -/
def Fair (states : Nat → State) (turns : Nat → Turn) : Prop :=
  WeaklyFair states turns ∧
    ∀ f, (∀ n, ∃ m, n ≤ m ∧ (states m).enabled (.i f) = true) → ∀ n, ∃ m, n ≤ m ∧ turns m = .i f

/-- No fault and no refusal is recorded (R206). -/
def NoFault (s : State) : Prop := s.fcause = 0 ∧ s.refused = false

/-! ## What agent M is doing -/

/-- The command in progress. -/
def running (s : State) : Option Instr := if s.loc.busy then (decodeCurrent s).toOption else none

/-- The step labels of a command's microprogram (R142, R144, R150, R175); a one-step command has L0 only. -/
def hasLabel : Instr → Label → Bool
  | .rxAvail, l | .rxReadUntil _ _ _, l => [Label.l0, .l1, .l2].contains l
  | .rxReadExact _ _, l => [Label.l0, .l1, .l2, .l3r0, .l3r1, .l3r2].contains l
  | .txWrite _ _ _, l => [Label.l0, .l1, .l2, .l3, .l4, .l5].contains l
  | .csDisable _, l | .csRestore _, l | .rxLineAvail, l | .init _, l => l == .l0
  | .rbWrite _, _ | .rbRead, _ | .rbCount, _ | .rbIsfull, _ | .rbIsempty, _ | .rxIsr, _ | .txIsr, _ => false

/-- Agent M is between the enter and the exit step of a guard on a source (R243); of TX_WRITE, at a label where
TXIE is 0 (R174). -/
def guarded : Source → Instr → Label → Bool
  | .rx, .rxAvail, l | .rx, .rxReadUntil _ _ _, l => [Label.l1, .l2].contains l
  | .rx, .rxReadExact _ _, l => [Label.l1, .l2, .l3r1, .l3r2].contains l
  | .tx, .txWrite _ _ _, l => [Label.l1, .l2, .l5].contains l
  | .rx, _, _ => false
  | .tx, _, _ => false

/-- Agent M is inside a TX_WRITE, past its first step. -/
def insideWrite (s : State) : Bool :=
  match running s with
  | some (.txWrite _ _ _) => s.loc.label != .l0
  | _ => false

/-! ## Invariants -/

/-- RD and WR are k-bit values and ARR has N entries (10_state.md rule R21). -/
abbrev RB.Wf {w : Nat} (k : Nat) (f : RB w) : Prop := f.rd < 2 ^ k ∧ f.wr < 2 ^ k ∧ f.arr.length = 2 ^ k

/-- Every element of the standalone instance is a W-bit value (R21). -/
abbrev ElementsFit (W : Nat) (f : RB 16) : Prop := f.arr.all (fun x => decide (x.toNat < 2 ^ W)) = true

/-- NLCNT equals the number of entries of RXF, between RD and WR, whose value is 0x0A (R37 (b)). -/
abbrev NewlinesCounted (s : State) : Prop :=
  s.nlcnt.toNat = (s.rxf.contents s.cfg.rxK).count newline

/-- A command in progress is a command of port M at a label of its own, and before INIT it is INIT (R32). -/
def WellPlaced (s : State) : Prop :=
  s.loc.busy = true →
    ∃ i, decodeCurrent s = .ok i ∧ hasLabel i s.loc.label = true ∧ (s.inited = true ∨ i.isInit = true)

/-- While agent M is inside a guard, the source's enable bit is 0 (R243, R174). -/
def GuardsHold (s : State) : Prop :=
  ∀ i f, running s = some i → guarded f i s.loc.label = true → s.ie f = false

/-- The exact guarded read of RX_READ_EXACT finds the bytes its poll saw (R150). -/
def ExactReadCovered (s : State) : Prop :=
  ∀ a n, s.fcause = 0 → running s = some (.rxReadExact a n) →
    (s.loc.label ≠ .l0 → s.loc.addr = a ∧ s.loc.len = n) ∧
    (s.loc.label = .l2 → s.loc.cnt ≤ s.rxf.count s.cfg.rxK) ∧
    (s.loc.label = .l3r0 → s.loc.len.toNat ≤ s.rxf.count s.cfg.rxK) ∧
    (s.loc.label = .l3r1 → s.loc.mode = .binary ∧ s.loc.lim = s.loc.len ∧ s.loc.cnt ≤ s.loc.len.toNat ∧
      s.loc.len.toNat ≤ s.loc.cnt + s.rxf.count s.cfg.rxK) ∧
    (s.loc.label = .l3r2 → s.loc.mode = .binary ∧ s.loc.cnt = s.loc.len.toNat)

/-- Before INIT nothing has entered the FIFOs, no interrupt is enabled and no mainline guard is open (R240). -/
def QuietBeforeInit (s : State) : Prop :=
  s.inited = false →
    s.rxie = false ∧ s.txie = false ∧ s.rxf.isEmpty = true ∧ s.txf.isEmpty = true ∧ s.gstkRx = [] ∧ s.gstkTx = []

/-- The invariant of the machine. -/
structure Invariant (s : State) : Prop where
  rxf : RB.Wf s.cfg.rxK s.rxf
  txf : RB.Wf s.cfg.txK s.txf
  testRb : RB.Wf s.cfg.testK s.test.rb
  testFits : ElementsFit s.cfg.testW s.test.rb
  newlines : NewlinesCounted s
  data : Memory.wf s.data = true
  prog : Memory.wf s.prog = true
  depthRx : s.gstkRx.length ≤ s.cfg.gdepth
  depthTx : s.gstkTx.length ≤ s.cfg.gdepth
  cpc : s.cpc ≤ s.cfg.cmdStream.length
  placed : WellPlaced s
  guards : GuardsHold s
  exactRead : ExactReadCovered s
  quiet : QuietBeforeInit s
  record : s.fcause = 0 → s.fword = 0 ∧ s.faddr = 0 ∧ s.refused = false

/-- The transmit gate (10_state.md rule R38 (a)), with what the open mainline transmit guards must have captured for it to
come back when they close: with no such guard open, a non-empty TXF outside a TX_WRITE has TXIE = 1; with one
open, TXIE = 0, every inner guard captured 0, and the outermost captured 1 if TXF holds bytes. -/
def TransmitGate (s : State) : Prop :=
  insideWrite s = false →
    match s.gstkTx.reverse with
    | [] => s.txf.isEmpty = false → s.txie = true
    | outer :: inner =>
      s.txie = false ∧ (∀ b ∈ inner, b = false) ∧ (s.txf.isEmpty = false → outer = true)

/-- Agent M is about to take a step of TX_WRITE inside an open mainline transmit guard (70_reset_and_hazards.md
rule R246). -/
def WritesInsideGuard (s : State) : Prop :=
  s.gstkTx ≠ [] ∧ ∃ sp a n, running s = some (.txWrite sp a n)

/-- The bytes that have left TX_WRITE, in order: on the line, in TXDR, in TXF (43_transmit.md rule R177). -/
def sentBytes (s : State) : List Byte :=
  s.lineOut ++ (if s.txrdy then [] else [s.txdr]) ++ s.txf.contents s.cfg.txK

/-! ## Sequences of ring-buffer primitives (R107) -/

/-- The result of a sequence of primitives: the ring buffer, the values of the successful writes and the values
of the successful reads, each in order. -/
structure OpsResult (w : Nat) where
  rb : RB w
  written : List (BitVec w)
  taken : List (BitVec w)

/-- A sequence of primitives on one instance: `some v` is RB_WRITE v, `none` is RB_READ. A read of an empty
buffer does not succeed (R103). -/
def RB.runOps {w : Nat} (k : Nat) : List (Option (BitVec w)) → OpsResult w → OpsResult w
  | [], r => r
  | some v :: ops, r =>
    let x := r.rb.write k v
    RB.runOps k ops { rb := x.2, written := if x.1 then r.written ++ [v] else r.written, taken := r.taken }
  | none :: ops, r =>
    let x := r.rb.read k
    RB.runOps k ops
      { rb := x.2, written := r.written, taken := if r.rb.isEmpty then r.taken else r.taken ++ [x.1] }

/-! ## Nested guards (41_guards.md rule R125) -/

/-- A properly nested sequence of mainline guards on one source. -/
inductive NestedGuards (f : Source) : List Instr → Prop
  | none : NestedGuards f []
  | guard {inner rest : List Instr} :
      NestedGuards f inner → NestedGuards f rest →
        NestedGuards f (Instr.csDisable f :: inner ++ Instr.csRestore f :: rest)

/-- How many guards a sequence of guard commands opens beyond those open before it, at most. -/
def guardRoom : List Instr → Nat
  | [] => 0
  | .csDisable _ :: is => guardRoom is + 1
  | .csRestore _ :: is => guardRoom is - 1
  | _ :: is => guardRoom is

/-! ## Noninterference -/

/-- The next state under a change of view; a stop stays as it is. -/
def mapNext (g : State → State) (o : Host.Outcome State Fault Refusal) : Host.Outcome State Fault Refusal :=
  match o with
  | .next s => .next (g s)
  | .fault r => .fault r
  | .refused r => .refused r

/-- A state with the three ghost items cleared (R35). -/
def withoutGhosts (s : State) : State := { s with lineOut := [], rxDropped := 0, lineLost := 0 }

/-! ## What each command may write -/

/-- The "written by" column of the register map (10_state.md rule R25), for the commands; a command of port M may
record a fault. The enable bits of a command's guard count as written by the command. -/
def mayWrite : Instr → Reg → Bool
  | .csDisable f, r => [Reg.ier, .res, if f = .rx then .gstkRx else .gstkTx, .fcause, .fword, .faddr].contains r
  | .csRestore f, r => [Reg.ier, if f = .rx then .gstkRx else .gstkTx, .fcause, .fword, .faddr].contains r
  | .rxAvail, r => [Reg.ier, .res].contains r
  | .rxLineAvail, r => r == .res
  | .rxReadUntil _ _ _, r | .rxReadExact _ _, r =>
    [Reg.ier, .nlcnt, .res, .fcause, .fword, .faddr].contains r
  | .txWrite _ _ _, r => [Reg.ier, .res, .fcause, .fword, .faddr].contains r
  | .init _, r => [Reg.ier, .baudcfg, .inited, .fcause, .fword].contains r
  | .rxIsr, r => [Reg.status, .nlcnt].contains r
  | .txIsr, r => [Reg.ier, .status, .txdr].contains r
  | .rbWrite _, _ | .rbRead, _ | .rbCount, _ | .rbIsfull, _ | .rbIsempty, _ => false

end Sys2Proof.Machine
end

