-- ==== Sys2Proof/Certificates/Slice0/Obligations.lean ====
section
/-! DEFINITION. The statements for the provers. Each docstring names the rule of spec/ a statement follows, or says
that it rests on an inference. `{ s with … }` in a conclusion is a whole next state: the fields named change as said,
and EVERY OTHER piece of state is unchanged. -/

open Sys2Proof Sys2Proof.Machine

/-! ## Encoding (30_encoding.md) -/

/-- Every well-formed command, at every operand value, is what its words decode to on its issuer's port, for every
element width of the standalone instance (R71, R72, R76, R79). -/
def Obligations.EncodeThenDecode : Prop :=
  ∀ (W : Nat) (i : Instr), 1 ≤ W → W ≤ 16 → i.wf W = true → decodeWords W i.port (encode i) = some i

/-- A legal command's words are exactly the words of the command they decode to, so no two commands share words and
every word is one row of R79 with its fixed bits, or illegal (R80). -/
def Obligations.DecodeThenEncode : Prop :=
  ∀ (W : Nat) (p : Port) (w0 w1 : Word) (i : Instr), 1 ≤ W → W ≤ 16 → decode W p w0 w1 = .ok i →
    i.port = p ∧ i.wf W = true ∧ encode i = if cmdLength w0 = 2 then [w0, w1] else [w0]

/-- R73: a reserved field that is not 0 makes the word illegal, wherever it appears. -/
def Obligations.ReservedFieldsAreIllegal : Prop :=
  ∀ (W : Nat) (p : Port) (w0 w1 : Word), 1 ≤ W → W ≤ 16 →
    (w0.extractLsb' 16 6 ≠ 0 ∨
      (sField w0 = true ∧ opcField w0 ≠ 0x40) ∨
      (fField w0 = true ∧ opcField w0 ≠ 0x20 ∧ opcField w0 ≠ 0x21) ∨
      (opcField w0 ∈ [0x11#8, 0x12, 0x13, 0x14, 0x20, 0x21, 0x30, 0x31, 0x50, 0x51] ∧ immField w0 ≠ 0) ∨
      (opcField w0 = 0x10 ∧ 2 ^ W ≤ (immField w0).toNat) ∨
      (cmdLength w0 = 2 ∧ w1.extractLsb' 24 8 ≠ 0) ∨
      (cmdLength w0 = 2 ∧ opcField w0 ≠ 0x32 ∧ termField w1 ≠ 0)) →
    ∀ i, decode W p w0 w1 ≠ .ok i

/-- R75: the issuer sets. A port decodes some word of an opcode exactly where the opcode's issuer set holds the port, so a
ring-buffer primitive and a handler opcode are illegal on port M. -/
def Obligations.OnlyTheIssuersPortDecodes : Prop :=
  ∀ (W : Nat) (p : Port) (opc : Byte),
    (∃ w0 w1 i, opcField w0 = opc ∧ decode W p w0 w1 = .ok i) ↔
      (p = .portT ∧ opc ∈ [0x10#8, 0x11, 0x12, 0x13, 0x14]) ∨
      (p = .portM ∧ opc ∈ [0x20#8, 0x21, 0x30, 0x31, 0x32, 0x33, 0x40, 0x60]) ∨
      (p = .portI ∧ opc ∈ [0x50#8, 0x51])

/-- R83: the worked encoding of each format, from its assembly line to its words and back. -/
def Obligations.WorkedEncodingsDecode : Prop :=
  (assemble "INIT 0x0067" = some (.init 0x0067) ∧ encode (.init 0x0067) = [0x60000067] ∧
    decodeWords 8 .portM [0x60000067] = some (.init 0x0067)) ∧
  (assemble "CS_DISABLE tx" = some (.csDisable .tx) ∧ encode (.csDisable .tx) = [0x20400000] ∧
    decodeWords 8 .portM [0x20400000] = some (.csDisable .tx)) ∧
  (assemble "RX_READ_LINE 0x0100, 16" = some (.rxReadUntil 0x0100 16 0x0A) ∧
    encode (.rxReadUntil 0x0100 16 0x0A) = [0x32000010, 0x000A0100] ∧
    decodeWords 8 .portM [0x32000010, 0x000A0100] = some (.rxReadUntil 0x0100 16 0x0A)) ∧
  (assemble "TX_WRITE prog:0x0040, 0" = some (.txWrite .prog 0x0040 0) ∧
    encode (.txWrite .prog 0x0040 0) = [0x40800000, 0x00000040] ∧
    decodeWords 8 .portM [0x40800000, 0x00000040] = some (.txWrite .prog 0x0040 0)) ∧
  (assemble "RB_WRITE 0x63" = some (.rbWrite 0x63) ∧ encode (.rbWrite 0x63) = [0x10000063] ∧
    decodeWords 8 .portT [0x10000063] = some (.rbWrite 0x63))

/-! ## Ring-buffer primitives on port T (40_ring_buffer.md) -/

/-- R102 on port T: a write that finds the masked next index equal to RD fails with RES = 0 and changes nothing else;
any other stores the element at WR, advances WR by masking, and answers 1, and the element is then the newest. -/
def Obligations.RbWriteAppendsOneElement : Prop :=
  ∀ (v : Half) (s : State), v.toNat < 2 ^ s.cfg.testW → RB.Wf s.cfg.testK s.test.rb →
    (((s.test.rb.wr + 1) &&& (2 ^ s.cfg.testK - 1)) = s.test.rb.rd →
      exec (.rbWrite v) s = .next { s with test.res := 0 }) ∧
    (((s.test.rb.wr + 1) &&& (2 ^ s.cfg.testK - 1)) ≠ s.test.rb.rd →
      ∃ f : RB 16,
        f.rd = s.test.rb.rd ∧ f.wr = ((s.test.rb.wr + 1) &&& (2 ^ s.cfg.testK - 1)) ∧
        f.arr = s.test.rb.arr.set s.test.rb.wr v ∧
        f.contents s.cfg.testK = s.test.rb.contents s.cfg.testK ++ [v] ∧
        exec (.rbWrite v) s = .next { s with test := { s.test with rb := f, res := 1 } })

/-- R103 on port T: a read of an empty buffer answers 0 and changes nothing else; any other answers the oldest element,
removes it and advances RD by masking. -/
def Obligations.RbReadTakesTheOldest : Prop :=
  ∀ (s : State), RB.Wf s.cfg.testK s.test.rb →
    (s.test.rb.contents s.cfg.testK = [] → exec .rbRead s = .next { s with test.res := 0 }) ∧
    (∀ v rest, s.test.rb.contents s.cfg.testK = v :: rest →
      ∃ f : RB 16,
        f.rd = ((s.test.rb.rd + 1) &&& (2 ^ s.cfg.testK - 1)) ∧ f.wr = s.test.rb.wr ∧ f.arr = s.test.rb.arr ∧
        f.contents s.cfg.testK = rest ∧
        exec .rbRead s = .next { s with test := { s.test with rb := f, res := v } })

/-- R101, R104, R105 on port T: the count and the two flags go to RES and change nothing else. In every instance whose
indices are k-bit values they say how many elements are buffered, whether one more would collide, and whether there is
none. -/
def Obligations.RbQueriesAnswerTheFlags : Prop :=
  ∀ (s : State), RB.Wf s.cfg.testK s.test.rb →
    exec .rbCount s =
      .next { s with test.res := BitVec.ofNat 16 ((s.test.rb.wr + 2 ^ s.cfg.testK - s.test.rb.rd) &&& (2 ^ s.cfg.testK - 1)) } ∧
    exec .rbCount s = .next { s with test.res := BitVec.ofNat 16 (s.test.rb.contents s.cfg.testK).length } ∧
    exec .rbIsfull s =
      .next { s with test.res := if ((s.test.rb.wr + 1) &&& (2 ^ s.cfg.testK - 1)) = s.test.rb.rd then 1 else 0 } ∧
    exec .rbIsfull s =
      .next { s with test.res := if (s.test.rb.contents s.cfg.testK).length + 1 = 2 ^ s.cfg.testK then 1 else 0 } ∧
    exec .rbIsempty s = .next { s with test.res := if s.test.rb.wr = s.test.rb.rd then 1 else 0 } ∧
    exec .rbIsempty s = .next { s with test.res := if s.test.rb.contents s.cfg.testK = [] then 1 else 0 }

/-- R107 and the count law of R108: in any sequence of primitives on an instance that starts empty, the successful reads
return a prefix of the successfully written values, in order, and COUNT is the number of the others. -/
def Obligations.FifoOrderAndCount : Prop :=
  ∀ (w k : Nat) (f : RB w) (ops : List (Option (BitVec w))), RB.Wf k f → f.isEmpty = true →
    let r := RB.runOps k ops { rb := f, written := [], taken := [] }
    r.taken <+: r.written ∧ r.rb.contents k = r.written.drop r.taken.length ∧
      r.rb.count k = r.written.length - r.taken.length

/-- R110: port T takes one word per transition. An illegal word sets FCAUSE_T = 0x01, leaves RD, WR, ARR and RES alone
and stops the instance; a legal one runs its primitive. -/
def Obligations.TestPortTakesOneWord : Prop :=
  ∀ (s : State) (w : Word) (rest : List Word), s.test.input = w :: rest →
    (s.enabled .test = true ↔ s.cfg.testOk = true ∧ s.test.fcause = 0) ∧
    (∀ i, decode s.cfg.testW .portT w 0 = .ok i →
      fire .test s = exec i { s with test.input := rest }) ∧
    ((∀ i, decode s.cfg.testW .portT w 0 ≠ .ok i) →
      fire .test s = .next { s with test := { s.test with input := rest, fcause := 0x01 } })

/-- R20: the standalone instance shares nothing with the block: a word of port T changes nothing else, and no agent of
the block changes the instance. -/
def Obligations.TestPortSharesNothing : Prop :=
  ∀ (t : Turn) (s s' : State), fire t s = .next s' →
    (t = .test → s' = { s with test := s'.test }) ∧ (t ≠ .test → s'.test = s.test)

/-! ## Guards (41_guards.md) -/

/-- R121: CS_DISABLE captures the source's enable bit, pushes it, clears the bit and answers it; the other source is not
touched (R120). On a full save stack it raises USAGE_FAULT. The microprogram form clears the bit. -/
def Obligations.CsDisableCapturesAndClears : Prop :=
  ∀ (s : State),
    (s.gstkRx.length ≠ s.cfg.gdepth →
      exec (.csDisable .rx) s = .next { s with
        gstkRx := s.rxie :: s.gstkRx, rxie := false, res := if s.rxie then 1 else 0, loc.busy := false }) ∧
    (s.gstkTx.length ≠ s.cfg.gdepth →
      exec (.csDisable .tx) s = .next { s with
        gstkTx := s.txie :: s.gstkTx, txie := false, res := if s.txie then 1 else 0, loc.busy := false }) ∧
    (∀ f, s.gsp f = s.cfg.gdepth → s.fcause = 0 →
      exec (.csDisable f) s = .next { s with fcause := 0x03, fword := s.loc.cur0, faddr := 0 }) ∧
    guardEnter .rx s = { s with rxie := false } ∧ guardEnter .tx s = { s with txie := false }

/-- R122: CS_RESTORE pops the innermost captured bit into the source's enable bit and leaves RES alone. With no open
guard it raises USAGE_FAULT. The microprogram form writes the captured bit. -/
def Obligations.CsRestorePopsAndRestores : Prop :=
  ∀ (s : State),
    (∀ p rest, s.gstkRx = p :: rest →
      exec (.csRestore .rx) s = .next { s with gstkRx := rest, rxie := p, loc.busy := false }) ∧
    (∀ p rest, s.gstkTx = p :: rest →
      exec (.csRestore .tx) s = .next { s with gstkTx := rest, txie := p, loc.busy := false }) ∧
    (∀ f, s.gsp f = 0 → s.fcause = 0 →
      exec (.csRestore f) s = .next { s with fcause := 0x03, fword := s.loc.cur0, faddr := 0 }) ∧
    (∀ p, guardExit .rx p s = { s with rxie := p } ∧ guardExit .tx p s = { s with txie := p })

/-- R125: a properly nested sequence of guards on one source inside a guard on it, with room on the save stack, leaves
the enable bit and the save stack at their values before the outer guard, holds the bit at 0 throughout, and leaves the
other source alone. -/
def Obligations.NestedGuardsRestore : Prop :=
  ∀ (f g : Source) (inner : List Instr) (s : State), NestedGuards f inner → f ≠ g →
    s.gsp f + guardRoom inner + 1 ≤ s.cfg.gdepth →
    (∀ part, part <+: inner → ∃ u, execAll (Instr.csDisable f :: part) s = some u ∧ u.ie f = false) ∧
    ∃ t, execAll (Instr.csDisable f :: inner ++ [Instr.csRestore f]) s = some t ∧
      t.ie f = s.ie f ∧ t.gstk f = s.gstk f ∧ t.ie g = s.ie g ∧ t.gstk g = s.gstk g

/-! ## Receive pipeline (42_receive.md) -/

/-- R141: the handler takes RXDR and clears RXC; a byte that finds room becomes the newest of RXF and, if it is 0x0A, is
counted; a byte that finds RXF full is dropped and only the ghost count shows it. -/
def Obligations.RxIsrPushesOrDrops : Prop :=
  ∀ (s : State), RB.Wf s.cfg.rxK s.rxf →
    ((s.rxf.contents s.cfg.rxK).length + 1 = 2 ^ s.cfg.rxK →
      exec .rxIsr s = .next { s with rxc := false, rxDropped := s.rxDropped + 1 }) ∧
    ((s.rxf.contents s.cfg.rxK).length + 1 ≠ 2 ^ s.cfg.rxK →
      ∃ f : RB 8, RB.Wf s.cfg.rxK f ∧ f.contents s.cfg.rxK = s.rxf.contents s.cfg.rxK ++ [s.rxdr] ∧
        exec .rxIsr s = .next { s with
          rxc := false, rxf := f, nlcnt := if s.rxdr = 0x0A then s.nlcnt + 1 else s.nlcnt })

/-- R142, step by step: the guard's capture, the count under the guard, the restore and the result. -/
def Obligations.RxAvailSteps : Prop :=
  ∀ (s : State),
    (s.loc.label = .l0 →
      exec .rxAvail s = .next { s with rxie := false, loc := { s.loc with p := s.rxie, label := .l1 } }) ∧
    (s.loc.label = .l1 →
      exec .rxAvail s = .next { s with loc := { s.loc with
        cnt := (s.rxf.wr + 2 ^ s.cfg.rxK - s.rxf.rd) &&& (2 ^ s.cfg.rxK - 1), label := .l2 } }) ∧
    (s.loc.label = .l2 →
      exec .rxAvail s = .next { s with
        rxie := s.loc.p, res := BitVec.ofNat 16 s.loc.cnt, loc := { s.loc with busy := false } })

/-- R142 as a whole: three steps of agent M answer the number of buffered bytes and, but for RES and agent M's locals,
leave the state as it was, RXIE among it. -/
def Obligations.RxAvailReturnsCount : Prop :=
  ∀ (s : State), s.cfg.blockOk = true → s.fcause = 0 → running s = some .rxAvail → s.loc.label = .l0 →
    ∃ l : Locals, l.busy = false ∧
      runTurns [.m, .m, .m] s =
        some { s with res := BitVec.ofNat 16 (s.rxf.contents s.cfg.rxK).length, loc := l }

/-- R143: one unguarded step answers whether NLCNT is not 0. -/
def Obligations.RxLineAvailTestsNewlineCount : Prop :=
  ∀ (s : State),
    exec .rxLineAvail s = .next { s with res := if s.nlcnt = 0 then 0 else 1, loc.busy := false }

/-- L0 of R144 with R145 and R147: the mode and limit follow from the terminator alone, and string mode with n = 0 raises
USAGE_FAULT before any state changes. -/
def Obligations.ReadUntilEnters : Prop :=
  ∀ (a n : Half) (t : Byte) (s : State), s.loc.label = .l0 →
    (t = 0 →
      exec (.rxReadUntil a n t) s = .next { s with rxie := false, loc := { s.loc with
        addr := a, term := 0, cnt := 0, mode := .binary, lim := n, p := s.rxie, label := .l1 } }) ∧
    (t ≠ 0 → n ≠ 0 →
      exec (.rxReadUntil a n t) s = .next { s with rxie := false, loc := { s.loc with
        addr := a, term := t, cnt := 0, mode := .string, lim := n - 1, p := s.rxie, label := .l1 } }) ∧
    (t ≠ 0 → n = 0 → s.fcause = 0 →
      exec (.rxReadUntil a n t) s = .next { s with fcause := 0x03, fword := s.loc.cur0, faddr := 0 })

/-- L1 of R144 with R146, R203 and R205: the drain stops at the limit or on an empty RXF; else it consumes the oldest byte,
uncounts a newline in both modes, and either ends at the terminator or stores the byte at ADDR + CNT and nowhere else;
past the top of DATA it faults, and the consumed byte is lost. -/
def Obligations.ReadUntilDrainsOneByte : Prop :=
  ∀ (a n : Half) (t : Byte) (s : State), s.loc.label = .l1 → RB.Wf s.cfg.rxK s.rxf → Memory.wf s.data = true →
    (s.loc.cnt = s.loc.lim.toNat ∨ s.rxf.contents s.cfg.rxK = [] →
      exec (.rxReadUntil a n t) s = .next { s with loc.label := .l2 }) ∧
    (∀ c rest, s.loc.cnt ≠ s.loc.lim.toNat → s.rxf.contents s.cfg.rxK = c :: rest →
      ∃ f : RB 8, RB.Wf s.cfg.rxK f ∧ f.contents s.cfg.rxK = rest ∧
        (s.loc.mode = .string → c = s.loc.term →
          exec (.rxReadUntil a n t) s = .next { s with
            rxf := f, nlcnt := if c = 0x0A then s.nlcnt - 1 else s.nlcnt,
            loc := { s.loc with c := c, label := .l2 } }) ∧
        (¬ (s.loc.mode = .string ∧ c = s.loc.term) → s.loc.addr.toNat + s.loc.cnt ≤ 0xFFFF →
          ∃ m : Memory, m.read (s.loc.addr.toNat + s.loc.cnt) = c ∧
            (∀ x, x ≠ s.loc.addr.toNat + s.loc.cnt → m.read x = s.data.read x) ∧
            exec (.rxReadUntil a n t) s = .next { s with
              rxf := f, nlcnt := if c = 0x0A then s.nlcnt - 1 else s.nlcnt, data := m,
              loc := { s.loc with c := c, cnt := (s.loc.cnt + 1) % 65536 } }) ∧
        (¬ (s.loc.mode = .string ∧ c = s.loc.term) → 0xFFFF < s.loc.addr.toNat + s.loc.cnt → s.fcause = 0 →
          exec (.rxReadUntil a n t) s = .next { s with
            rxf := f, nlcnt := if c = 0x0A then s.nlcnt - 1 else s.nlcnt, loc.c := c,
            fcause := 0x02, fword := s.loc.cur0,
            faddr := BitVec.ofNat 16 (s.loc.addr.toNat + s.loc.cnt) }))

/-- L2 of R144 with R147: the null of string mode lands at ADDR + CNT and nowhere else, the captured bit is restored and
RES is CNT; where the null lies past the top of DATA it faults and no guard is restored (R205). -/
def Obligations.ReadUntilExits : Prop :=
  ∀ (a n : Half) (t : Byte) (s : State), s.loc.label = .l2 → Memory.wf s.data = true →
    (s.loc.mode = .binary →
      exec (.rxReadUntil a n t) s = .next { s with
        rxie := s.loc.p, res := BitVec.ofNat 16 s.loc.cnt, loc.busy := false }) ∧
    (s.loc.mode = .string → s.loc.addr.toNat + s.loc.cnt ≤ 0xFFFF →
      ∃ m : Memory, m.read (s.loc.addr.toNat + s.loc.cnt) = 0 ∧
        (∀ x, x ≠ s.loc.addr.toNat + s.loc.cnt → m.read x = s.data.read x) ∧
        exec (.rxReadUntil a n t) s = .next { s with
          data := m, rxie := s.loc.p, res := BitVec.ofNat 16 s.loc.cnt, loc.busy := false }) ∧
    (s.loc.mode = .string → 0xFFFF < s.loc.addr.toNat + s.loc.cnt → s.fcause = 0 →
      exec (.rxReadUntil a n t) s = .next { s with
        fcause := 0x02, fword := s.loc.cur0, faddr := BitVec.ofNat 16 (s.loc.addr.toNat + s.loc.cnt) })

/-- R148: RX_READ, run by agent M alone, moves min(n, COUNT) bytes in FIFO order into DATA from its buffer's address on,
writes no other byte, lowers NLCNT by the newlines among them, and answers how many. But for agent M's locals the rest
of the state is as it was. -/
def Obligations.RxReadMovesMin : Prop :=
  ∀ (a n : Half) (s : State) (m : Nat), s.cfg.blockOk = true → s.fcause = 0 →
    running s = some (.rxReadUntil a n 0) → s.loc.label = .l0 → RB.Wf s.cfg.rxK s.rxf → Memory.wf s.data = true →
    m = min n.toNat (s.rxf.contents s.cfg.rxK).length → a.toNat + m ≤ 0x10000 →
    ∃ (f : RB 8) (d : Memory) (l : Locals), l.busy = false ∧ RB.Wf s.cfg.rxK f ∧
      f.contents s.cfg.rxK = (s.rxf.contents s.cfg.rxK).drop m ∧
      (∀ i, i < m → (s.rxf.contents s.cfg.rxK)[i]? = some (d.read (a.toNat + i))) ∧
      (∀ x, x < a.toNat ∨ a.toNat + m ≤ x → d.read x = s.data.read x) ∧
      runTurns (List.replicate (m + 3) .m) s = some { s with
        rxf := f, data := d, loc := l, res := BitVec.ofNat 16 m,
        nlcnt := s.nlcnt - BitVec.ofNat 8 (((s.rxf.contents s.cfg.rxK).take m).count 0x0A) }

/-- RX_READ_LINE as R144 runs it (R149, but for the reach of its n: notes/assumptions/8.md): where the first 0x0A of RXF stands
before the reserved byte, agent M alone copies the bytes before it, writes a null after them, consumes it, lowers NLCNT by
one and answers the line's length without the newline. -/
def Obligations.RxReadLineReturnsLine : Prop :=
  ∀ (a n : Half) (s : State) (text rest : List Byte), s.cfg.blockOk = true → s.fcause = 0 →
    running s = some (.rxReadUntil a n 0x0A) → s.loc.label = .l0 → RB.Wf s.cfg.rxK s.rxf → Memory.wf s.data = true →
    s.rxf.contents s.cfg.rxK = text ++ 0x0A :: rest → 0x0A#8 ∉ text → text.length + 2 ≤ n.toNat →
    a.toNat + text.length ≤ 0xFFFF →
    ∃ (f : RB 8) (d : Memory) (l : Locals), l.busy = false ∧ RB.Wf s.cfg.rxK f ∧ f.contents s.cfg.rxK = rest ∧
      (∀ i, i < text.length → text[i]? = some (d.read (a.toNat + i))) ∧
      d.read (a.toNat + text.length) = 0 ∧
      (∀ x, x < a.toNat ∨ a.toNat + text.length < x → d.read x = s.data.read x) ∧
      runTurns (List.replicate (text.length + 3) .m) s = some { s with
        rxf := f, data := d, loc := l, res := BitVec.ofNat 16 text.length, nlcnt := s.nlcnt - 1 }

/-- R149 word for word: "With n >= 2 and a 0x0A among the first n bytes of RXF" the 0x0A is consumed. EXPECTED TO FAIL: by R144 the
limit n - 1 is tested first, so a 0x0A that is exactly the n-th byte stays in RXF (notes/assumptions/8.md). -/
def Obligations.ReadLineConsumesNewlineAmongFirstN : Prop :=
  ∀ (a n : Half) (s : State) (text rest : List Byte), s.cfg.blockOk = true → s.fcause = 0 →
    running s = some (.rxReadUntil a n 0x0A) → s.loc.label = .l0 → Invariant s →
    s.rxf.contents s.cfg.rxK = text ++ 0x0A :: rest → 0x0A#8 ∉ text → 2 ≤ n.toNat → text.length < n.toNat →
    a.toNat + n.toNat ≤ 0x10000 →
    ∃ (k : Nat) (t : State), runTurns (List.replicate k .m) s = some t ∧ t.loc.busy = false ∧
      t.rxf.contents s.cfg.rxK = rest

/-- R150, every step. The poll is a guarded count under a captured bit of its own, and goes back to L0 while the count is
short. L3 is the exact guarded read: the guard and binary mode with the limit LEN; then, one byte a step, the oldest byte of
RXF is consumed, uncounted if it is a newline, and stored at ADDR + CNT and nowhere else, or past the top of DATA the step
faults with the byte lost (R203, R205); last the captured bit is restored and RES says whether CNT is LEN. -/
def Obligations.ExactReadSteps : Prop :=
  ∀ (a n : Half) (s : State),
    (s.loc.label = .l0 →
      exec (.rxReadExact a n) s = .next { s with rxie := false, loc := { s.loc with
        addr := a, len := n, p2 := s.rxie, label := .l1 } }) ∧
    (s.loc.label = .l1 →
      exec (.rxReadExact a n) s = .next { s with loc := { s.loc with
        cnt := (s.rxf.wr + 2 ^ s.cfg.rxK - s.rxf.rd) &&& (2 ^ s.cfg.rxK - 1), label := .l2 } }) ∧
    (s.loc.label = .l2 →
      exec (.rxReadExact a n) s = .next { s with rxie := s.loc.p2, loc := { s.loc with
        label := if s.loc.cnt < s.loc.len.toNat then .l0 else .l3r0 } }) ∧
    (s.loc.label = .l3r0 →
      exec (.rxReadExact a n) s = .next { s with rxie := false, loc := { s.loc with
        term := 0, cnt := 0, mode := .binary, lim := s.loc.len, p := s.rxie, label := .l3r1 } }) ∧
    (s.loc.label = .l3r1 → RB.Wf s.cfg.rxK s.rxf → s.loc.cnt = s.loc.lim.toNat ∨ s.rxf.contents s.cfg.rxK = [] →
      exec (.rxReadExact a n) s = .next { s with loc.label := .l3r2 }) ∧
    (∀ c rest, s.loc.label = .l3r1 → RB.Wf s.cfg.rxK s.rxf → Memory.wf s.data = true → s.loc.mode = .binary →
      s.loc.cnt ≠ s.loc.lim.toNat → s.rxf.contents s.cfg.rxK = c :: rest →
      ∃ f : RB 8, RB.Wf s.cfg.rxK f ∧ f.contents s.cfg.rxK = rest ∧
        (s.loc.addr.toNat + s.loc.cnt ≤ 0xFFFF →
          ∃ m : Memory, m.read (s.loc.addr.toNat + s.loc.cnt) = c ∧
            (∀ x, x ≠ s.loc.addr.toNat + s.loc.cnt → m.read x = s.data.read x) ∧
            exec (.rxReadExact a n) s = .next { s with
              rxf := f, nlcnt := if c = 0x0A then s.nlcnt - 1 else s.nlcnt, data := m,
              loc := { s.loc with c := c, cnt := (s.loc.cnt + 1) % 65536 } }) ∧
        (0xFFFF < s.loc.addr.toNat + s.loc.cnt → s.fcause = 0 →
          exec (.rxReadExact a n) s = .next { s with
            rxf := f, nlcnt := if c = 0x0A then s.nlcnt - 1 else s.nlcnt, loc.c := c,
            fcause := 0x02, fword := s.loc.cur0,
            faddr := BitVec.ofNat 16 (s.loc.addr.toNat + s.loc.cnt) })) ∧
    (s.loc.label = .l3r2 → s.loc.mode = .binary →
      exec (.rxReadExact a n) s = .next { s with
        rxie := s.loc.p, res := if s.loc.cnt = s.loc.len.toNat then 1 else 0, loc.busy := false })

/-- R150 as a whole: with n bytes buffered, agent M alone moves exactly n bytes into DATA, writes no other byte, and answers
1. But for agent M's locals the rest of the state is as it was. -/
def Obligations.ExactReadCompletes : Prop :=
  ∀ (a n : Half) (s : State), s.cfg.blockOk = true → s.fcause = 0 →
    running s = some (.rxReadExact a n) → s.loc.label = .l0 → RB.Wf s.cfg.rxK s.rxf → Memory.wf s.data = true →
    n.toNat ≤ (s.rxf.contents s.cfg.rxK).length → a.toNat + n.toNat ≤ 0x10000 →
    ∃ (f : RB 8) (d : Memory) (l : Locals), l.busy = false ∧ RB.Wf s.cfg.rxK f ∧
      f.contents s.cfg.rxK = (s.rxf.contents s.cfg.rxK).drop n.toNat ∧
      (∀ i, i < n.toNat → (s.rxf.contents s.cfg.rxK)[i]? = some (d.read (a.toNat + i))) ∧
      (∀ x, x < a.toNat ∨ a.toNat + n.toNat ≤ x → d.read x = s.data.read x) ∧
      runTurns (List.replicate (n.toNat + 6) .m) s = some { s with
        rxf := f, data := d, loc := l, res := 1,
        nlcnt := s.nlcnt - BitVec.ofNat 8 (((s.rxf.contents s.cfg.rxK).take n.toNat).count 0x0A) }

/-- R150's corner case: whatever the other agents did between its steps, an RX_READ_EXACT that completes without a fault
answers 1. -/
def Obligations.ExactReadReturnsOne : Prop :=
  ∀ (a n : Half) (s : State), Invariant s → s.fcause = 0 → running s = some (.rxReadExact a n) → s.loc.label = .l3r2 →
    ∃ t, exec (.rxReadExact a n) s = .next t ∧ t.loc.busy = false ∧ t.res = 1 ∧ t.rxie = s.loc.p

/-- R151 and R245, the first hang: with n > RX_N - 1 every step of any agent leaves RX_READ_EXACT in its poll, with RES never
written. -/
def Obligations.ExactReadHangsBeyondCapacity : Prop :=
  ∀ (a n : Half) (s s' : State), Invariant s → running s = some (.rxReadExact a n) → 2 ^ s.cfg.rxK - 1 < n.toNat →
    s.fcause = 0 → s.loc.label ∈ [Label.l0, .l1, .l2] → step s = .next s' →
    running s' = some (.rxReadExact a n) ∧ s'.cfg = s.cfg ∧ s'.fcause = 0 ∧
      s'.loc.label ∈ [Label.l0, .l1, .l2] ∧ s'.res = s.res

/-! ## Transmit pipeline (43_transmit.md) -/

/-- R171: the handler disables its own interrupt on an empty TXF; else it moves the oldest byte into TXDR and clears
TXRDY. -/
def Obligations.TxIsrSendsOrDisables : Prop :=
  ∀ (s : State), RB.Wf s.cfg.txK s.txf →
    (s.txf.contents s.cfg.txK = [] → exec .txIsr s = .next { s with txie := false }) ∧
    (∀ b rest, s.txf.contents s.cfg.txK = b :: rest →
      ∃ f : RB 8, RB.Wf s.cfg.txK f ∧ f.contents s.cfg.txK = rest ∧
        exec .txIsr s = .next { s with txf := f, txdr := b, txrdy := false })

/-- R175 step by step, with R172, R173 and R174. No step stores to memory; TXIE is 0 from L0 to L5 but between the enable of L2
and L4; the last step sets it whatever was captured. -/
def Obligations.TxWriteSteps : Prop :=
  ∀ (sp : Space) (a n : Half) (s : State), RB.Wf s.cfg.txK s.txf →
    (s.loc.label = .l0 →
      exec (.txWrite sp a n) s = .next { s with txie := false, loc := { s.loc with
        space := sp, addr := a, len := n, cnt := 0, p := s.txie, label := .l1 } }) ∧
    (s.loc.label = .l1 → s.loc.len ≠ 0 → s.loc.cnt = s.loc.len.toNat →
      exec (.txWrite sp a n) s = .next { s with loc.label := .l5 }) ∧
    (s.loc.label = .l1 → ¬ (s.loc.len ≠ 0 ∧ s.loc.cnt = s.loc.len.toNat) →
      (s.loc.addr.toNat + s.loc.cnt ≤ 0xFFFF →
        exec (.txWrite sp a n) s = .next { s with loc := { s.loc with
          c := (s.mem s.loc.space).read (s.loc.addr.toNat + s.loc.cnt),
          label := if s.loc.len = 0 ∧ (s.mem s.loc.space).read (s.loc.addr.toNat + s.loc.cnt) = 0 then .l5
                   else .l2 } }) ∧
      (0xFFFF < s.loc.addr.toNat + s.loc.cnt → s.fcause = 0 →
        exec (.txWrite sp a n) s = .next { s with
          fcause := 0x02, fword := s.loc.cur0, faddr := BitVec.ofNat 16 (s.loc.addr.toNat + s.loc.cnt) })) ∧
    (s.loc.label = .l2 → (s.txf.contents s.cfg.txK).length + 1 = 2 ^ s.cfg.txK →
      exec (.txWrite sp a n) s = .next { s with txie := true, loc.label := .l3 }) ∧
    (s.loc.label = .l2 → (s.txf.contents s.cfg.txK).length + 1 ≠ 2 ^ s.cfg.txK →
      ∃ f : RB 8, RB.Wf s.cfg.txK f ∧ f.contents s.cfg.txK = s.txf.contents s.cfg.txK ++ [s.loc.c] ∧
        exec (.txWrite sp a n) s = .next { s with
          txf := f, loc := { s.loc with cnt := s.loc.cnt + 1, label := .l1 } }) ∧
    (s.loc.label = .l3 → exec (.txWrite sp a n) s = .next { s with loc.label := .l4 }) ∧
    (s.loc.label = .l4 → exec (.txWrite sp a n) s = .next { s with txie := false, loc.label := .l2 }) ∧
    (s.loc.label = .l5 →
      exec (.txWrite sp a n) s = .next { s with
        txie := true, res := BitVec.ofNat 16 s.loc.cnt, loc.busy := false })

/-- R175 as a whole, counted: where TXF has room for all n bytes, agent M alone enqueues the n source bytes in order, sets TXIE
and answers n; every other piece of state but its locals, memory among it, is as it was. -/
def Obligations.TxWriteEnqueuesCounted : Prop :=
  ∀ (sp : Space) (a n : Half) (s : State), s.cfg.blockOk = true → s.fcause = 0 →
    running s = some (.txWrite sp a n) → s.loc.label = .l0 → RB.Wf s.cfg.txK s.txf → n ≠ 0 →
    (s.txf.contents s.cfg.txK).length + n.toNat < 2 ^ s.cfg.txK → a.toNat + n.toNat ≤ 0x10000 →
    ∃ (f : RB 8) (l : Locals), l.busy = false ∧ RB.Wf s.cfg.txK f ∧
      f.contents s.cfg.txK =
        s.txf.contents s.cfg.txK ++ (List.range n.toNat).map (fun i => (s.mem sp).read (a.toNat + i)) ∧
      runTurns (List.replicate (2 * n.toNat + 3) .m) s = some { s with
        txf := f, txie := true, res := n, loc := l }

/-- R176: TX_WRITE_STRING enqueues the bytes up to, but not including, the first null, leaves TXIE = 1 and answers the string's
length. Here TXF has room for the string and agent M runs alone. -/
def Obligations.TxWriteStringStopsAtNull : Prop :=
  ∀ (sp : Space) (a : Half) (s : State) (m : Nat), s.cfg.blockOk = true → s.fcause = 0 →
    running s = some (.txWrite sp a 0) → s.loc.label = .l0 → RB.Wf s.cfg.txK s.txf →
    (∀ i, i < m → (s.mem sp).read (a.toNat + i) ≠ 0) → (s.mem sp).read (a.toNat + m) = 0 →
    (s.txf.contents s.cfg.txK).length + m < 2 ^ s.cfg.txK → a.toNat + m ≤ 0xFFFF →
    ∃ (f : RB 8) (l : Locals), l.busy = false ∧ RB.Wf s.cfg.txK f ∧
      f.contents s.cfg.txK =
        s.txf.contents s.cfg.txK ++ (List.range m).map (fun i => (s.mem sp).read (a.toNat + i)) ∧
      runTurns (List.replicate (2 * m + 3) .m) s = some { s with
        txf := f, txie := true, res := BitVec.ofNat 16 m, loc := l }

/-- R177, step by step: the bytes on the line, in TXDR and in TXF, in that order, are one stream that nothing reorders,
drops or duplicates. A step of any agent leaves it alone, but for the enqueuing step of a TX_WRITE, which appends the byte
it fetched and counts it. -/
def Obligations.TransmitHistoryIsOneStream : Prop :=
  ∀ (s s' : State), RB.Wf s.cfg.txK s.txf → step s = .next s' →
    sentBytes s' = sentBytes s ∨
      (∃ sp a n, running s = some (.txWrite sp a n) ∧ s.loc.label = .l2 ∧ s'.loc.cnt = s.loc.cnt + 1 ∧
        sentBytes s' = sentBytes s ++ [s.loc.c])

/-- The drain of R170 and R227: with the transmit interrupt enabled, agents I and E alone, in a number of transitions that the
contents of TXF fix, put every byte of TXDR and TXF on the line in order, and the handler then disables its own
interrupt. -/
def Obligations.TransmitDrains : Prop :=
  ∀ (s : State), s.cfg.blockOk = true → s.inited = true → s.txie = true → RB.Wf s.cfg.txK s.txf →
    ∃ (f : RB 8) (b : Byte), RB.Wf s.cfg.txK f ∧ f.contents s.cfg.txK = [] ∧
      runTurns ((if s.txrdy then [] else [Turn.e .tx]) ++
          (List.replicate (s.txf.contents s.cfg.txK).length [Turn.i .tx, Turn.e .tx]).flatten ++ [Turn.i .tx]) s =
        some { s with txf := f, txdr := b, txie := false, txrdy := true, lineOut := sentBytes s }

/-- R252's last sentence under the weakest reading of R223, `WeaklyFair`: TX_WRITE of any length completes or faults. EXPECTED TO
FAIL: TXIE is 1 only between L2's enable and L4, so agent I is not continuously enabled over the passes of the loop, and
this reading alone lets agent M loop through L2, L3, L4 with TXF full and TXRDY = 1 for ever (notes/assumptions/11.md). Under
the reading that R252 needs it completes: `TxWriteCompletesUnderFairness`. -/
def Obligations.TxWriteCompletesUnderWeakFairness : Prop :=
  ∀ (states : Nat → State) (turns : Nat → Turn) (sp : Space) (a n : Half),
    Invariant (states 0) → NoFault (states 0) → (states 0).cfg.lineIn = [] → (states 0).cfg.lineEndless = false →
    IsExecution states turns → WeaklyFair states turns →
    running (states 0) = some (.txWrite sp a n) →
    ∃ m, (states m).loc.busy = false ∨ (states m).fcause ≠ 0

/-! ## Initialization (44_init.md) -/

/-- R190 with R191: the first INIT writes BAUDCFG, sets RXIE, clears TXIE and sets INITED, and nothing else; a second one is
refused. -/
def Obligations.InitEnablesReceive : Prop :=
  ∀ (n : Half) (s : State),
    (s.inited = false →
      exec (.init n) s = .next { s with
        baudcfg := n, rxie := true, txie := false, inited := true, loc.busy := false }) ∧
    (s.inited = true → s.fcause = 0 →
      exec (.init n) s = .next { s with refused := true, fcause := 0x82, fword := s.loc.cur0 })

/-! ## Fetch, faults, interrupts (10_state.md, 60_exceptions.md) -/

/-- R32 with R202 and R208: a fetch at the end of the stream is no step; a truncated or illegal command is ILLEGAL_COMMAND
and leaves CPC at it; a command but INIT before INIT is refused and leaves CPC at it; any other is taken. At the end of a
stream of exactly 2^16 words CPC becomes 65536 and agent M has ended, where R32's 16 bits would hold 0: that is the model's
reading (DEDUCED, notes/assumptions/12.md). -/
def Obligations.FetchFollowsTheStream : Prop :=
  ∀ (s : State), s.loc.busy = false → s.fcause = 0 →
    (s.cfg.cmdStream.length ≤ s.cpc → s.enabled .m = false) ∧
    (∀ w0, s.cfg.cmdStream[s.cpc]? = some w0 → s.cfg.cmdStream.length < s.cpc + cmdLength w0 →
      fire .m s = .next { s with loc.cur0 := w0, fcause := 0x01, fword := w0, faddr := 0 }) ∧
    (∀ w0 w1, s.cfg.cmdStream[s.cpc]? = some w0 →
      (if cmdLength w0 = 2 then s.cfg.cmdStream[s.cpc + 1]? = some w1 else w1 = s.loc.cur1) →
      ((∀ i, decode s.cfg.testW .portM w0 w1 ≠ .ok i) →
        fire .m s = .next { s with
          loc := { s.loc with cur0 := w0, cur1 := w1 }, fcause := 0x01, fword := w0, faddr := 0 }) ∧
      (∀ i, decode s.cfg.testW .portM w0 w1 = .ok i → s.inited = false → (∀ n, i ≠ .init n) →
        fire .m s = .next { s with
          loc := { s.loc with cur0 := w0, cur1 := w1 }, refused := true, fcause := 0x81, fword := w0 }) ∧
      (∀ i, decode s.cfg.testW .portM w0 w1 = .ok i → s.inited = true ∨ (∃ n, i = .init n) →
        fire .m s = .next { s with
          cpc := s.cpc + cmdLength w0,
          loc := { s.loc with cur0 := w0, cur1 := w1, busy := true, label := .l0 } }))

/-- R30: once FCAUSE is nonzero, no step of any agent writes any of the four record fields again, and agent M takes no
further step: its pointer and micro-state stay where they are. -/
def Obligations.FaultRecordIsFinal : Prop :=
  ∀ (s s' : State), s.fcause ≠ 0 → step s = .next s' →
    s'.fcause = s.fcause ∧ s'.fword = s.fword ∧ s'.faddr = s.faddr ∧ s'.refused = s.refused ∧
      s'.cpc = s.cpc ∧ s'.loc = s.loc

/-- R36: the two pending conditions, agent I's enabling by them, and that they are not latched: clearing an enable bit hides a
condition, and setting it again brings the condition back as long as the status flag is still 1. -/
def Obligations.InterruptsAreLevelSensitive : Prop :=
  ∀ (s : State),
    s.pending .rx = (s.inited && s.rxie && s.rxc) ∧ s.pending .tx = (s.inited && s.txie && s.txrdy) ∧
      (s.cfg.blockOk = true →
        ((∃ f, s.enabled (.i f) = true) ↔ s.pending .rx = true ∨ s.pending .tx = true) ∧
          ∀ f, s.enabled (.i f) = s.pending f) ∧
      (∀ f, (s.setIe f false).pending f = false) ∧
      (∀ f, s.pending f = true → ((s.setIe f false).setIe f true).pending f = true) ∧
      fire (.i .rx) s = exec .rxIsr s ∧ fire (.i .tx) s = exec .txIsr s

/-- R215: with both interrupts pending agent I may run either handler first. The handlers touch disjoint state, RX_ISR its
RXC, RXF, NLCNT and RX_DROPPED and TX_ISR its TXDR, TXRDY, TXIE and TXF, and both orders reach the same state. -/
def Obligations.HandlersCommute : Prop :=
  ∀ (s : State), s.cfg.blockOk = true → s.pending .rx = true → s.pending .tx = true →
    s.enabled (.i .rx) = true ∧ s.enabled (.i .tx) = true ∧
      ∃ t u v, fire (.i .rx) s = .next t ∧ fire (.i .tx) s = .next u ∧
        t = { s with rxc := t.rxc, rxf := t.rxf, nlcnt := t.nlcnt, rxDropped := t.rxDropped } ∧
        u = { s with txdr := u.txdr, txrdy := u.txrdy, txie := u.txie, txf := u.txf } ∧
        runTurns [.i .rx, .i .tx] s = some v ∧ runTurns [.i .tx, .i .rx] s = some v

/-- R212 with R126: a handler neither writes nor reads agent M's pointer and micro-state, and touches only its own source's
FIFO, data register and flags (RX_ISR also NLCNT, TX_ISR also TXIE). -/
def Obligations.HandlersLeaveAgentMAlone : Prop :=
  ∀ (s : State) (l : Locals) (p : Nat),
    (∀ f, exec (handlerOf f) { s with loc := l, cpc := p } =
      mapNext (fun t => { t with loc := l, cpc := p }) (exec (handlerOf f) s)) ∧
    (∃ t, exec .rxIsr s = .next t ∧
      t = { s with rxc := t.rxc, rxf := t.rxf, nlcnt := t.nlcnt, rxDropped := t.rxDropped }) ∧
    (∃ t, exec .txIsr s = .next t ∧
      t = { s with txie := t.txie, txf := t.txf, txdr := t.txdr, txrdy := t.txrdy })

/-- R35: no rule reads LINE_OUT, RX_DROPPED or LINE_LOST, and they change no behaviour: two states that differ only in them
step to states that differ only in them. -/
def Obligations.GhostsAreNeverRead : Prop :=
  ∀ (s t : State), withoutGhosts s = withoutGhosts t →
    mapNext withoutGhosts (step s) = mapNext withoutGhosts (step t)

/-- R221 and R222: what agent E's two transfers do and when each is enabled. -/
def Obligations.LineTransfers : Prop :=
  ∀ (s : State), s.cfg.blockOk = true →
    (s.enabled (.e .rx) = true ↔ (s.cfg.lineAt s.linPos).isSome = true) ∧
    (s.cfg.lineEndless = false → ((s.cfg.lineAt s.linPos).isSome = true ↔ s.linPos < s.cfg.lineIn.length)) ∧
    (∀ b, s.cfg.lineAt s.linPos = some b → s.rxc = false →
      fire (.e .rx) s = .next { s with linPos := s.linPos + 1, rxdr := b, rxc := true }) ∧
    (∀ b, s.cfg.lineAt s.linPos = some b → s.rxc = true →
      fire (.e .rx) s = .next { s with linPos := s.linPos + 1, lineLost := s.lineLost + 1 }) ∧
    (s.enabled (.e .tx) = true ↔ s.txrdy = false) ∧
    fire (.e .tx) s = .next { s with lineOut := s.lineOut ++ [s.txdr], txrdy := true }

/-! ## Reset and configuration -/

/-- R39: what reset leaves, for every accepted configuration of the block and every content of the two memories. Where the
standalone instance's configuration is accepted too, every value here is one the spec states. Where that one is refused, that
FCAUSE, REFUSED and FCAUSE_T stay 0 is the model's choice (DESIGN CHOICE, notes/assumptions/18.md). -/
def Obligations.ResetLeaves : Prop :=
  ∀ (cfg : Config) (dataInit progImage : Memory), cfg.blockOk = true →
    let s := State.resetOf cfg dataInit progImage
    s.rxf.rd = 0 ∧ s.rxf.wr = 0 ∧ s.txf.rd = 0 ∧ s.txf.wr = 0 ∧
      s.readReg .nlcnt = 0 ∧ s.readReg .ier = 0b00 ∧ s.readReg .status = 0b10 ∧ s.readReg .inited = 0 ∧
      s.readReg .fcause = 0 ∧ s.readReg .fword = 0 ∧ s.readReg .faddr = 0 ∧ s.refused = false ∧
      s.gsp .rx = 0 ∧ s.gsp .tx = 0 ∧ s.cpc = 0 ∧ s.loc.busy = false ∧
      s.data = dataInit ∧ s.prog = progImage ∧
      s.lineOut = [] ∧ s.rxDropped = 0 ∧ s.lineLost = 0 ∧ s.linPos = 0 ∧
      s.test.rb.rd = 0 ∧ s.test.rb.wr = 0 ∧ s.test.fcause = 0 ∧
      s.pending .rx = false ∧ s.pending .tx = false

/-- R206 with R200: a refused configuration is recorded before any step, and no agent of the block ever steps. -/
def Obligations.RefusedConfigurationNeverRuns : Prop :=
  ∀ (cfg : Config) (dataInit progImage : Memory), cfg.blockOk = false →
    (State.resetOf cfg dataInit progImage).fcause = 0x83 ∧ (State.resetOf cfg dataInit progImage).refused = true ∧
      step (State.resetOf cfg dataInit progImage) = .refused .blockConfig ∧
      ∀ s : State, s.cfg = cfg → ∀ t, t ≠ .test → s.enabled t = false

/-! ## Frames and whole-machine rules -/

/-- R51, R59 and R63: no step of any agent writes PROG or CMD_STREAM; and none changes any other parameter of R6, LINE_IN and the
FIFO sizes among them, because R20 calls them no state. That State carries the parameters as a record is the model's choice
(DESIGN CHOICE, notes/assumptions/1.md). -/
def Obligations.ProgAndConfigurationNeverChange : Prop :=
  ∀ (s s' : State), step s = .next s' → s'.prog = s.prog ∧ s'.cfg = s.cfg

/-- R51 and R53: of all commands only RX_READ_UNTIL and RX_READ_EXACT store to DATA, and such a step stores to the one byte at
ADDR + CNT; every other byte reads as before. -/
def Obligations.DataWritesLandAtTheBufferByte : Prop :=
  ∀ (i : Instr) (s t : State), exec i s = .next t →
    ((∀ a n e, i ≠ .rxReadUntil a n e) → (∀ a n, i ≠ .rxReadExact a n) → t.data = s.data) ∧
    (∀ a, bufferByte s.loc.addr s.loc.cnt = a → ∀ x, x ≠ a → t.data.read x = s.data.read x) ∧
    (0xFFFF < bufferByte s.loc.addr s.loc.cnt → t.data = s.data)

/-- R25, the "written by" column, for every command: a register that a command's step changes is one the register map says it
writes. Of a save stack the whole stack is compared, its depth counter among it. -/
def Obligations.RegistersChangeOnlyByTheirWriters : Prop :=
  ∀ (i : Instr) (s t : State) (r : Reg), exec i s = .next t → mayWrite i r = false →
    t.readReg r = s.readReg r ∧ (r = .gstkRx → t.gstkRx = s.gstkRx) ∧ (r = .gstkTx → t.gstkTx = s.gstkTx)

/-- The frame of every command outside the register map and memory: which command may change each FIFO, the fault mark, the
standalone instance and the ghost counts, and that none changes CPC (only a fetch does, R32), the line's state or the
schedule. -/
def Obligations.EachCommandLeavesTheRest : Prop :=
  ∀ (i : Instr) (s t : State), exec i s = .next t →
    t.cfg = s.cfg ∧ t.cpc = s.cpc ∧ t.prog = s.prog ∧ t.lineOut = s.lineOut ∧ t.lineLost = s.lineLost ∧
      t.linPos = s.linPos ∧ t.sched = s.sched ∧ t.turnNo = s.turnNo ∧
      (i.port ≠ .portT → t.test = s.test) ∧ (i.port ≠ .portM → t.loc = s.loc) ∧
      (i ≠ .rxIsr → t.rxDropped = s.rxDropped) ∧ (i.isInit = false → t.refused = s.refused) ∧
      (i ≠ .rxIsr → (∀ a n e, i ≠ .rxReadUntil a n e) → (∀ a n, i ≠ .rxReadExact a n) → t.rxf = s.rxf) ∧
      (i ≠ .txIsr → (∀ sp a n, i ≠ .txWrite sp a n) → t.txf = s.txf)

/-- R33 lets the scheduler pick any enabled agent: whichever enabled transition the schedule names next is the one the step
runs, whole. That the choice is the head of `sched`, a field of the model's own, is the model's choice (DESIGN CHOICE,
notes/assumptions/2.md). -/
def Obligations.ScheduledTurnRuns : Prop :=
  ∀ (s : State) (t : Turn) (rest : List Turn), s.sched = t :: rest → s.enabled t = true →
    step s = fire t { s with sched := rest, turnNo := s.turnNo + 1 }

/-- A step runs the decoded command: where agent M is picked and CUR0, CUR1 decode to a command in progress, the step is that
command's meaning at that state, moved past the schedule's entry. That agent M is picked by the head of `sched`, a field of
the model's own, is the model's choice (DESIGN CHOICE, notes/assumptions/2.md). -/
def Obligations.StepRunsTheCommandInProgress : Prop :=
  ∀ (s : State) (i : Instr) (rest : List Turn), s.sched = .m :: rest → s.cfg.blockOk = true → s.fcause = 0 →
    s.loc.busy = true → decode s.cfg.testW .portM s.loc.cur0 s.loc.cur1 = .ok i →
    step s = exec i { s with sched := rest, turnNo := s.turnNo + 1 }

/-- R33: every step is one transition of an enabled agent, and a state with an enabled agent is never taken for one
without. -/
def Obligations.StepTakesAnEnabledTurn : Prop :=
  ∀ (s : State),
    (∀ s', step s = .next s' → ∃ t, Trans t { s with sched := s.sched.tail, turnNo := s.turnNo + 1 } s') ∧
    ((∃ t, s.enabled t = true) →
      ∃ t, s.enabled t = true ∧ step s = fire t { s with sched := s.sched.tail, turnNo := s.turnNo + 1 })

/-- R227: with nothing presented on port T, the run has ended exactly in the final states; a state in which agent M is
stopped by a fault or refusal is never one. -/
def Obligations.FinalStateEndsTheRun : Prop :=
  ∀ (s : State), s.cfg.blockOk = true → s.test.input = [] →
    (step s = .fault .runEnded ↔
      (s.cfg.cmdStream.length ≤ s.cpc ∧ s.loc.busy = false ∧ s.fcause = 0) ∧
      (s.cfg.lineEndless = false ∧ s.cfg.lineIn.length ≤ s.linPos) ∧
      s.pending .rx = false ∧ s.pending .tx = false ∧ s.txrdy = true) ∧
    (s.isFinal = true ↔ step s = .fault .runEnded)

/-! ## Invariants -/

/-- What every run starts from has the invariant, the reset state among it. -/
def Obligations.StartHasTheInvariant : Prop :=
  (∀ s, Start s → Invariant s ∧ TransmitGate s) ∧ Start State.reset

/-- Every step of every agent keeps the invariant: masked indices, a newline count that counts, canonical memories, bounded
save stacks, a well-placed command, held guards and a covered exact read. -/
def Obligations.StepKeepsTheInvariant : Prop :=
  ∀ (s s' : State), Invariant s → step s = .next s' → Invariant s'

/-- From a state with the invariant, a step with any enabled agent has a next state: no run meets a foreign step label or a busy
agent M without a command. -/
def Obligations.InvariantMeansProgress : Prop :=
  ∀ (s : State), Invariant s → (∃ t, s.enabled t = true) → ∃ s', step s = .next s'

/-- R37, in every state that a run reaches: (a) the counts stay below N, (b) NLCNT counts the newlines of RXF, (c) NLCNT is at
most COUNT. -/
def Obligations.NewlineCountOfReachableStates : Prop :=
  ∀ (s : State), Reachable s →
    (s.rxf.count s.cfg.rxK ≤ 2 ^ s.cfg.rxK - 1 ∧ s.txf.count s.cfg.txK ≤ 2 ^ s.cfg.txK - 1) ∧
    s.nlcnt.toNat = ((s.rxf.contents s.cfg.rxK).filter (· == 0x0A)).length ∧
    s.nlcnt.toNat ≤ s.rxf.count s.cfg.rxK

/-- R38 (a), with what makes it inductive: every step keeps the transmit gate, unless agent M steps through a TX_WRITE inside
an open mainline transmit guard, which R246 forbids a program. -/
def Obligations.TransmitGateIsKept : Prop :=
  ∀ (s s' : State), Invariant s → TransmitGate s → ¬ WritesInsideGuard s → step s = .next s' → TransmitGate s'

/-! ## Completion of the spin-waits (70_reset_and_hazards.md) -/

/-- R252 with R251, for TX_WRITE: under fairness, in which agent E keeps taking bytes, TX_WRITE of any length and from any of
its steps completes, or faults on a source past 0xFFFF. Without fairness it need not: with TXF full, one pass of L2, L3 and L4
by agent M alone comes round to the same state. The fairness of agent I is `Fair`, the reading of R223 under which R252 holds
(notes/assumptions/11.md). -/
def Obligations.TxWriteCompletesUnderFairness : Prop :=
  (∀ (states : Nat → State) (turns : Nat → Turn) (sp : Space) (a n : Half),
    Invariant (states 0) → NoFault (states 0) → (states 0).cfg.blockOk = true →
    IsExecution states turns → Fair states turns →
    running (states 0) = some (.txWrite sp a n) →
    ∃ m, (states m).loc.busy = false ∨ (states m).fcause = 0x02) ∧
  (∀ (s : State) (sp : Space) (a n : Half), Invariant s → s.cfg.blockOk = true → s.fcause = 0 →
    running s = some (.txWrite sp a n) → s.loc.label = .l2 →
    (s.txf.contents s.cfg.txK).length + 1 = 2 ^ s.cfg.txK →
    runTurns [.m, .m, .m] s = some s)

/-- R252 with R151, for the poll: under fairness, with a length that RXF can hold, RXIE = 1 outside the poll's guard and a
sender that keeps sending, RX_READ_EXACT completes, or faults on a buffer past 0xFFFF. Without fairness it need not: while the
count is short, agent M alone comes round to the same state again. The fairness of agent I is `Fair`, the reading of R223
under which R252 holds (notes/assumptions/11.md). -/
def Obligations.ExactReadCompletesUnderFairness : Prop :=
  (∀ (states : Nat → State) (turns : Nat → Turn) (a n : Half),
    Invariant (states 0) → NoFault (states 0) → (states 0).cfg.blockOk = true →
    IsExecution states turns → Fair states turns → (∀ k, ∃ m, k ≤ m ∧ turns m = .e .rx) →
    running (states 0) = some (.rxReadExact a n) → n.toNat ≤ 2 ^ (states 0).cfg.rxK - 1 →
    ((states 0).loc.label = .l0 → (states 0).rxie = true) →
    ((states 0).loc.label ∈ [Label.l1, .l2] → (states 0).loc.p2 = true) →
    ∃ m, (states m).loc.busy = false ∨ (states m).fcause = 0x02) ∧
  (∀ (s : State) (a n : Half),
    s.cfg.blockOk = true → s.fcause = 0 → running s = some (.rxReadExact a n) → s.loc.label = .l0 →
    (s.rxf.contents s.cfg.rxK).length < n.toNat →
    ∃ l : Locals, l.label = .l0 ∧ running { s with loc := l } = some (.rxReadExact a n) ∧
      runTurns [.m, .m, .m] s = some { s with loc := l } ∧
      runTurns [.m, .m, .m] { s with loc := l } = some { s with loc := l })
end

