-- ==== Sys2Proof/Laws/Encoding.lean ====
section
/-! SUPPORT. The laws of the encoding: the fields of an encoded word read back, and everything a decoding that
succeeds says about its words. -/

namespace Sys2Proof

@[simp] theorem opcField_word0 (o : Byte) (s f : Bool) (n : Half) : opcField (word0 o s f n) = o := by
  apply BitVec.eq_of_getLsbD_eq
  intro i hi
  simp only [opcField, word0, BitVec.getLsbD_extractLsb', BitVec.getLsbD_append]
  rw [if_neg (by omega), if_neg (by omega), if_neg (by omega), if_neg (by omega)]
  simp [hi, show 24 + i - 16 - 6 - 1 - 1 = i by omega]

@[simp] theorem sField_word0 (o : Byte) (s f : Bool) (n : Half) : sField (word0 o s f n) = s := by
  simp only [sField, word0, BitVec.getLsbD_append]
  simp

@[simp] theorem fField_word0 (o : Byte) (s f : Bool) (n : Half) : fField (word0 o s f n) = f := by
  simp only [fField, word0, BitVec.getLsbD_append]
  simp

@[simp] theorem immField_word0 (o : Byte) (s f : Bool) (n : Half) : immField (word0 o s f n) = n := by
  apply BitVec.eq_of_getLsbD_eq
  intro i hi
  simp only [immField, word0, BitVec.getLsbD_extractLsb', BitVec.getLsbD_append]
  simp [hi]

@[simp] theorem termField_word1 (t : Byte) (a : Half) : termField (word1 t a) = t := by
  apply BitVec.eq_of_getLsbD_eq
  intro i hi
  simp only [termField, word1, BitVec.getLsbD_extractLsb', BitVec.getLsbD_append]
  simp [hi, show ¬ 16 + i < 16 by omega]

@[simp] theorem addrField_word1 (t : Byte) (a : Half) : addrField (word1 t a) = a := by
  apply BitVec.eq_of_getLsbD_eq
  intro i hi
  simp only [addrField, word1, BitVec.getLsbD_extractLsb', BitVec.getLsbD_append]
  simp [hi]

@[simp] theorem sourceOf_bit (f : Source) : sourceOf f.bit = f := by cases f <;> rfl

@[simp] theorem spaceOf_bit (sp : Space) : spaceOf sp.bit = sp := by cases sp <;> rfl

/-- A row that OPC selects has that OPC. -/
theorem opcodeOf_opc {b : Byte} {o : Opcode} (h : opcodeOf b = some o) : o.opc = b := by
  simpa using List.find?_some h

/-- Everything a successful decoding says (R72). -/
theorem decode_ok_cases {W : Nat} {p : Port} {w0 w1 : Word} {i : Instr} (h : decode W p w0 w1 = .ok i) :
    ∃ o : Opcode, o.opc = opcField w0 ∧ o.port = p ∧ w0 &&& o.mask0 W = o.match0 ∧ w1 &&& o.mask1 = 0 ∧
      i = o.assemble w0 w1 := by
  unfold decode at h
  cases ho : opcodeOf (opcField w0) with
  | none => rw [ho] at h; cases h
  | some o =>
    rw [ho] at h
    dsimp only at h
    split_ifs at h with h1 h2 h3
    cases h
    exact ⟨o, opcodeOf_opc ho, by simpa using h1, by simpa using h2, by simpa using h3, rfl⟩

end Sys2Proof
end

