-- ==== Sys2Proof/Laws/Memory.lean ====
section
/-! SUPPORT. The laws of memory: a read after a write, and the canonical form that every write keeps. -/

namespace Sys2Proof.Machine

@[simp] theorem Memory.read_nil (a : Nat) : Memory.read [] a = Memory.unlisted := rfl

/-- An address below every listed one reads as an unlisted one. -/
theorem Memory.read_below {low : Nat} {m : Memory} (h : m.wfFrom low = true) {a : Nat} (ha : a < low) :
    m.read a = Memory.unlisted := by
  induction m generalizing low with
  | nil => rfl
  | cons c rest ih =>
    obtain ⟨b, v⟩ := c
    simp only [Memory.wfFrom, Bool.and_eq_true, decide_eq_true_eq] at h
    rw [Memory.read, if_neg (by omega)]
    exact ih h.2 (by omega)

theorem Memory.wfFrom_mono {low low' : Nat} {m : Memory} (h : m.wfFrom low = true) (hl : low' ≤ low) :
    m.wfFrom low' = true := by
  cases m with
  | nil => rfl
  | cons c rest =>
    obtain ⟨b, v⟩ := c
    simp only [Memory.wfFrom, Bool.and_eq_true, decide_eq_true_eq] at h ⊢
    exact ⟨⟨⟨by omega, h.1.1.2⟩, h.1.2⟩, h.2⟩

/-- A write leaves every other address alone. -/
@[simp] theorem Memory.read_write_other (m : Memory) {a x : Nat} (v : Byte) (h : x ≠ a) :
    (m.write a v).read x = m.read x := by
  induction m with
  | nil =>
    unfold Memory.write
    split
    · rfl
    · simp [Memory.read, Ne.symm h]
  | cons c rest ih =>
    obtain ⟨b, u⟩ := c
    unfold Memory.write
    split_ifs with h1 h2 h3 h4
    · rfl
    · rw [Memory.read, if_neg (Ne.symm h)]
    · rw [Memory.read, if_neg (by omega)]
    · rw [Memory.read, if_neg (Ne.symm h), Memory.read, if_neg (by omega)]
    · rw [Memory.read, Memory.read, ih]

/-- A read after a write to the same address gives the value written. -/
theorem Memory.read_write_same {low : Nat} {m : Memory} (h : m.wfFrom low = true) (a : Nat) (v : Byte) :
    (m.write a v).read a = v := by
  induction m generalizing low with
  | nil =>
    unfold Memory.write
    split
    · rw [Memory.read_nil]; exact Eq.symm ‹_›
    · rw [Memory.read, if_pos rfl]
  | cons c rest ih =>
    obtain ⟨b, u⟩ := c
    have h' := h
    simp only [Memory.wfFrom, Bool.and_eq_true, decide_eq_true_eq] at h'
    unfold Memory.write
    split_ifs with h1 h2 h3 h4
    · rw [Memory.read, if_neg (by omega), Memory.read_below h'.2 (by omega), h2]
    · rw [Memory.read, if_pos rfl]
    · rw [Memory.read_below h'.2 (by omega), h4]
    · rw [Memory.read, if_pos rfl]
    · rw [Memory.read, if_neg (Ne.symm h3)]
      exact ih h'.2

/-- A write inside the space keeps the canonical form. -/
theorem Memory.wfFrom_write {low : Nat} {m : Memory} (h : m.wfFrom low = true) {a : Nat} (hl : low ≤ a)
    (ha : a ≤ topAddress) (v : Byte) : (m.write a v).wfFrom low = true := by
  induction m generalizing low with
  | nil =>
    unfold Memory.write
    split
    · rfl
    · simp only [Memory.wfFrom, Bool.and_eq_true, decide_eq_true_eq]
      exact ⟨⟨⟨hl, ha⟩, ‹_›⟩, trivial⟩
  | cons c rest ih =>
    obtain ⟨b, u⟩ := c
    have h' := h
    simp only [Memory.wfFrom, Bool.and_eq_true, decide_eq_true_eq] at h'
    obtain ⟨⟨⟨p1, p2⟩, p3⟩, p4⟩ := h'
    unfold Memory.write
    split_ifs with h1 h2 h3 h4
    · exact h
    · simp only [Memory.wfFrom, Bool.and_eq_true, decide_eq_true_eq]
      exact ⟨⟨⟨hl, ha⟩, h2⟩, ⟨⟨by omega, p2⟩, p3⟩, p4⟩
    · exact Memory.wfFrom_mono p4 (by omega)
    · simp only [Memory.wfFrom, Bool.and_eq_true, decide_eq_true_eq]
      exact ⟨⟨⟨hl, ha⟩, h4⟩, by rw [h3]; exact p4⟩
    · simp only [Memory.wfFrom, Bool.and_eq_true, decide_eq_true_eq]
      exact ⟨⟨⟨p1, p2⟩, p3⟩, ih p4 (by omega)⟩

/-- Everything `memRead` can do. -/
theorem memRead_cases (sp : Space) (a : Nat) (s : State) :
    (a ≤ topAddress ∧ memRead sp a s = .ok ((s.mem sp).read a)) ∨
      (topAddress < a ∧ memRead sp a s = .error (BitVec.ofNat 16 a)) := by
  unfold memRead
  split
  · exact .inr ⟨by omega, rfl⟩
  · exact .inl ⟨by omega, rfl⟩

/-- Everything `memWrite` can do. -/
theorem memWrite_cases (a : Nat) (v : Byte) (s : State) :
    (a ≤ topAddress ∧ memWrite a v s = .ok { s with data := s.data.write a v }) ∨
      (topAddress < a ∧ memWrite a v s = .error (BitVec.ofNat 16 a)) := by
  unfold memWrite
  split
  · exact .inr ⟨by omega, rfl⟩
  · exact .inl ⟨by omega, rfl⟩

/-- Every memory operation keeps DATA's canonical form, and reset's memories have it. -/
theorem memWrite_wf {a : Nat} {v : Byte} {s t : State} (h : memWrite a v s = .ok t) (hw : Memory.wf s.data = true) :
    Memory.wf t.data = true := by
  rcases memWrite_cases a v s with ⟨ha, e⟩ | ⟨_, e⟩
  · rw [e] at h
    cases h
    exact Memory.wfFrom_write hw (Nat.zero_le a) ha v
  · rw [e] at h
    cases h

theorem reset_memories_wf : Memory.wf State.reset.data = true ∧ Memory.wf State.reset.prog = true := ⟨rfl, rfl⟩

end Sys2Proof.Machine
end

