-- ==== Sys2Proof/Laws/PerInstr.lean ====
section
/-! SUPPORT. What holds of every command as a piece of text, one lemma per constructor. Family `OpcodeRow`: the
command's first word selects a row of the opcode map whose issuer is the command's, and the command has as many words
as `cmd_length` says of its first word (30_encoding.md rules R74, R75 and R79). -/

namespace Sys2Proof.Laws.OpcodeRow

/-- The command's first word selects a row with the command's issuer, and fixes the command's length. -/
def Statement (i : Instr) : Prop :=
  ∃ w0 rest, encode i = w0 :: rest ∧ (opcodeOf (opcField w0)).map Opcode.port = some i.port ∧
    (encode i).length = cmdLength w0

theorem opcField_word0 (opc : Byte) (s f : Bool) (imm : Half) : opcField (word0 opc s f imm) = opc := by
  unfold opcField word0
  apply BitVec.eq_of_getElem_eq
  intro i hi
  have h1 : ¬ 24 + i < 16 := by omega
  have h2 : ¬ 24 + i - 16 < 6 := by omega
  have h3 : ¬ 24 + i - 16 - 6 < 1 := by omega
  have h4 : ¬ 24 + i - 16 - 6 - 1 < 1 := by omega
  have h5 : 24 + i - 16 - 6 - 1 - 1 = i := by omega
  simp only [BitVec.getElem_extractLsb', BitVec.getLsbD_append, h1, h2, h3, h4, h5, if_false,
    BitVec.getLsbD_eq_getElem hi]

theorem of_word0 {i : Instr} {opc : Byte} {s f : Bool} {imm : Half} {rest : List Word}
    (h : encode i = word0 opc s f imm :: rest) (hp : (opcodeOf opc).map Opcode.port = some i.port)
    (hl : rest.length + 1 = if opc = 0x32 ∨ opc = 0x33 ∨ opc = 0x40 then 2 else 1) : Statement i :=
  ⟨_, rest, h, by rw [opcField_word0]; exact hp,
    by rw [h, List.length_cons, hl, cmdLength, opcField_word0]⟩

theorem rbWrite (v : Half) : Statement (.rbWrite v) := of_word0 rfl rfl rfl
theorem rbRead : Statement .rbRead := of_word0 rfl rfl rfl
theorem rbCount : Statement .rbCount := of_word0 rfl rfl rfl
theorem rbIsfull : Statement .rbIsfull := of_word0 rfl rfl rfl
theorem rbIsempty : Statement .rbIsempty := of_word0 rfl rfl rfl
theorem csDisable (f : Source) : Statement (.csDisable f) := of_word0 rfl rfl rfl
theorem csRestore (f : Source) : Statement (.csRestore f) := of_word0 rfl rfl rfl
theorem rxAvail : Statement .rxAvail := of_word0 rfl rfl rfl
theorem rxLineAvail : Statement .rxLineAvail := of_word0 rfl rfl rfl
theorem rxReadUntil (a n : Half) (t : Byte) : Statement (.rxReadUntil a n t) := of_word0 rfl rfl rfl
theorem rxReadExact (a n : Half) : Statement (.rxReadExact a n) := of_word0 rfl rfl rfl
theorem txWrite (sp : Space) (a n : Half) : Statement (.txWrite sp a n) := of_word0 rfl rfl rfl
theorem rxIsr : Statement .rxIsr := of_word0 rfl rfl rfl
theorem txIsr : Statement .txIsr := of_word0 rfl rfl rfl
theorem init (n : Half) : Statement (.init n) := of_word0 rfl rfl rfl

end Sys2Proof.Laws.OpcodeRow
end

