-- ==== Sys2Proof/Laws/RingBuffer.lean ====
section
/-! SUPPORT. The laws of one ring buffer with masked indices: COUNT, the flags, and what a write and a read do to
the buffered elements. -/

namespace Sys2Proof.Machine

variable {w k : Nat} {f : RB w}

/-- The masked increment of an index. -/
theorem succ_mod {x n : Nat} (h : x < n) : (x + 1) % n = if x + 1 = n then 0 else x + 1 := by
  split
  · rw [‹x + 1 = n›, Nat.mod_self]
  · exact Nat.mod_eq_of_lt (by omega)

/-- The masked sum of an index and an offset below the size. -/
theorem add_mod_size {x i n : Nat} (hx : x < n) (hi : i < n) :
    (x + i) % n = if x + i < n then x + i else x + i - n := by
  split
  · exact Nat.mod_eq_of_lt ‹_›
  · rw [Nat.mod_eq_sub_mod (by omega), Nat.mod_eq_of_lt (by omega)]

/-- COUNT without the modular arithmetic. -/
theorem RB.count_eq (h : f.Wf k) : f.count k = if f.rd ≤ f.wr then f.wr - f.rd else f.wr + 2 ^ k - f.rd := by
  obtain ⟨h1, h2, -⟩ := h
  unfold RB.count
  split
  · rw [show f.wr + 2 ^ k - f.rd = (f.wr - f.rd) + 2 ^ k by omega, Nat.add_mod_right, Nat.mod_eq_of_lt (by omega)]
  · exact Nat.mod_eq_of_lt (by omega)

/-- COUNT never reaches N (R7, R101). -/
theorem RB.count_lt (h : f.Wf k) : f.count k < 2 ^ k := Nat.mod_lt _ (by have := h.1; omega)

/-- EMPTY is COUNT = 0 (R105). -/
theorem RB.isEmpty_iff (h : f.Wf k) : f.isEmpty = true ↔ f.count k = 0 := by
  rw [RB.count_eq h]
  obtain ⟨h1, h2, -⟩ := h
  simp only [RB.isEmpty, beq_iff_eq]
  split <;> omega

/-- FULL is COUNT = N - 1 (R104). -/
theorem RB.isFull_iff (h : f.Wf k) : f.isFull k = true ↔ f.count k + 1 = 2 ^ k := by
  rw [RB.count_eq h]
  obtain ⟨h1, h2, -⟩ := h
  simp only [RB.isFull, beq_iff_eq, succ_mod h2]
  split <;> split <;> omega

@[simp] theorem RB.contents_length : (f.contents k).length = f.count k := by simp [RB.contents]

theorem RB.reset_wf (w k : Nat) : (RB.reset w k).Wf k := ⟨Nat.two_pow_pos k, Nat.two_pow_pos k, by simp [RB.reset]⟩

theorem RB.reset_contents (w k : Nat) : (RB.reset w k).contents k = [] := by
  simp [RB.contents, RB.count, RB.reset]

/-- A write to a full buffer changes nothing (R102). -/
theorem RB.write_full (h : f.isFull k = true) (v : BitVec w) : f.write k v = (false, f) := by simp [RB.write, h]

theorem RB.write_notFull (h : f.isFull k = false) (v : BitVec w) :
    f.write k v = (true, { f with arr := f.arr.set f.wr v, wr := (f.wr + 1) % 2 ^ k }) := by simp [RB.write, h]

/-- A read of an empty buffer is 0 and changes nothing (R103). -/
theorem RB.read_empty (h : f.isEmpty = true) : f.read k = (0, f) := by simp [RB.read, h]

theorem RB.read_notEmpty (h : f.isEmpty = false) :
    f.read k = (f.arr.getD f.rd 0, { f with rd := (f.rd + 1) % 2 ^ k }) := by simp [RB.read, h]

theorem RB.write_wf (h : f.Wf k) (v : BitVec w) : (f.write k v).2.Wf k := by
  unfold RB.write
  split
  · exact h
  · exact ⟨h.1, Nat.mod_lt _ (by have := h.1; omega), by simpa using h.2.2⟩

theorem RB.read_wf (h : f.Wf k) : (f.read k).2.Wf k := by
  unfold RB.read
  split
  · exact h
  · exact ⟨Nat.mod_lt _ (by have := h.1; omega), h.2.1, h.2.2⟩

theorem RB.count_write (h : f.Wf k) (hf : f.isFull k = false) (v : BitVec w) :
    (f.write k v).2.count k = f.count k + 1 := by
  have hw := RB.write_wf h v
  have hn : ¬ f.count k + 1 = 2 ^ k := by rw [← RB.isFull_iff h, hf]; simp
  rw [RB.count_eq hw, RB.count_eq h]
  rw [RB.count_eq h] at hn
  rw [RB.write_notFull hf]
  obtain ⟨h1, h2, -⟩ := h
  simp only [succ_mod h2]
  split_ifs at * <;> omega

theorem RB.count_read (h : f.Wf k) (he : f.isEmpty = false) : (f.read k).2.count k + 1 = f.count k := by
  have hw := RB.read_wf h
  have hn : ¬ f.count k = 0 := by rw [← RB.isEmpty_iff h, he]; simp
  rw [RB.count_eq hw, RB.count_eq h]
  rw [RB.count_eq h] at hn
  rw [RB.read_notEmpty he]
  obtain ⟨h1, h2, -⟩ := h
  simp only [succ_mod h1]
  split_ifs at * <;> omega

/-- A successful write appends its element to the buffered ones (R102). -/
theorem RB.contents_write (h : f.Wf k) (hf : f.isFull k = false) (v : BitVec w) :
    (f.write k v).2.contents k = f.contents k ++ [v] := by
  have hn : ¬ f.count k + 1 = 2 ^ k := by rw [← RB.isFull_iff h, hf]; simp
  have hc := RB.count_lt h
  have hwr : (f.rd + f.count k) % 2 ^ k = f.wr := by
    rw [add_mod_size h.1 hc, RB.count_eq h]
    obtain ⟨h1, h2, -⟩ := h
    split_ifs <;> omega
  rw [RB.contents, RB.count_write h hf, List.range_succ, List.map_append, RB.write_notFull hf]
  congr 1
  · apply List.map_congr_left
    intro i hi
    rw [List.mem_range] at hi
    have hne : f.wr ≠ (f.rd + i) % 2 ^ k := by
      rw [← hwr, add_mod_size h.1 hc, add_mod_size h.1 (by omega)]
      have := h.1
      split_ifs <;> omega
    simp [List.getD_eq_getElem?_getD, List.getElem?_set_ne hne]
  · have := h.2.1
    simp [hwr, List.getD_eq_getElem?_getD, h.2.2, h.2.1]

/-- A successful read takes the oldest buffered element (R103). -/
theorem RB.contents_read (h : f.Wf k) (he : f.isEmpty = false) :
    f.contents k = (f.read k).1 :: (f.read k).2.contents k := by
  rw [RB.contents, ← RB.count_read h he, List.range_succ_eq_map, List.map_cons, List.map_map, RB.read_notEmpty he]
  congr 1
  · simp [Nat.mod_eq_of_lt h.1]
  · apply List.map_congr_left
    intro i _
    simp only [Function.comp, Nat.succ_eq_add_one]
    rw [Nat.mod_add_mod, show f.rd + (i + 1) = f.rd + 1 + i by omega]

theorem elementsFit_iff {W : Nat} {f : RB 16} : ElementsFit W f ↔ ∀ x ∈ f.arr, x.toNat < 2 ^ W := by
  simp [ElementsFit, List.all_eq_true]

/-- A masked index is the remainder (R109). -/
theorem mask_eq_mod (x k : Nat) : x &&& (2 ^ k - 1) = x % 2 ^ k := Nat.and_two_pow_sub_one_eq_mod x k

end Sys2Proof.Machine
end

