-- ==== Sys2Proof/Laws/State.lean ====
section
/-! SUPPORT. One lemma per field of State per named update: the update's own fields at their new values, every other
field unchanged. With these no proof unfolds an update. -/

namespace Sys2Proof.Machine

/-! ## The scheduler -/

@[simp] theorem tick_cfg (s : State) : (tick s).cfg = s.cfg := rfl
@[simp] theorem tick_rxf (s : State) : (tick s).rxf = s.rxf := rfl
@[simp] theorem tick_txf (s : State) : (tick s).txf = s.txf := rfl
@[simp] theorem tick_nlcnt (s : State) : (tick s).nlcnt = s.nlcnt := rfl
@[simp] theorem tick_rxie (s : State) : (tick s).rxie = s.rxie := rfl
@[simp] theorem tick_txie (s : State) : (tick s).txie = s.txie := rfl
@[simp] theorem tick_rxc (s : State) : (tick s).rxc = s.rxc := rfl
@[simp] theorem tick_txrdy (s : State) : (tick s).txrdy = s.txrdy := rfl
@[simp] theorem tick_rxdr (s : State) : (tick s).rxdr = s.rxdr := rfl
@[simp] theorem tick_txdr (s : State) : (tick s).txdr = s.txdr := rfl
@[simp] theorem tick_baudcfg (s : State) : (tick s).baudcfg = s.baudcfg := rfl
@[simp] theorem tick_inited (s : State) : (tick s).inited = s.inited := rfl
@[simp] theorem tick_res (s : State) : (tick s).res = s.res := rfl
@[simp] theorem tick_fcause (s : State) : (tick s).fcause = s.fcause := rfl
@[simp] theorem tick_fword (s : State) : (tick s).fword = s.fword := rfl
@[simp] theorem tick_faddr (s : State) : (tick s).faddr = s.faddr := rfl
@[simp] theorem tick_refused (s : State) : (tick s).refused = s.refused := rfl
@[simp] theorem tick_gstkRx (s : State) : (tick s).gstkRx = s.gstkRx := rfl
@[simp] theorem tick_gstkTx (s : State) : (tick s).gstkTx = s.gstkTx := rfl
@[simp] theorem tick_cpc (s : State) : (tick s).cpc = s.cpc := rfl
@[simp] theorem tick_loc (s : State) : (tick s).loc = s.loc := rfl
@[simp] theorem tick_data (s : State) : (tick s).data = s.data := rfl
@[simp] theorem tick_prog (s : State) : (tick s).prog = s.prog := rfl
@[simp] theorem tick_lineOut (s : State) : (tick s).lineOut = s.lineOut := rfl
@[simp] theorem tick_rxDropped (s : State) : (tick s).rxDropped = s.rxDropped := rfl
@[simp] theorem tick_lineLost (s : State) : (tick s).lineLost = s.lineLost := rfl
@[simp] theorem tick_linPos (s : State) : (tick s).linPos = s.linPos := rfl
@[simp] theorem tick_test (s : State) : (tick s).test = s.test := rfl

@[simp] theorem tick_sched (s : State) : (tick s).sched = s.sched.tail := rfl
@[simp] theorem tick_turnNo (s : State) : (tick s).turnNo = s.turnNo + 1 := rfl

/-! ## End of a microprogram step -/

@[simp] theorem goto_cfg (l : Label) (s : State) : (goto l s).cfg = s.cfg := rfl
@[simp] theorem goto_rxf (l : Label) (s : State) : (goto l s).rxf = s.rxf := rfl
@[simp] theorem goto_txf (l : Label) (s : State) : (goto l s).txf = s.txf := rfl
@[simp] theorem goto_nlcnt (l : Label) (s : State) : (goto l s).nlcnt = s.nlcnt := rfl
@[simp] theorem goto_rxie (l : Label) (s : State) : (goto l s).rxie = s.rxie := rfl
@[simp] theorem goto_txie (l : Label) (s : State) : (goto l s).txie = s.txie := rfl
@[simp] theorem goto_rxc (l : Label) (s : State) : (goto l s).rxc = s.rxc := rfl
@[simp] theorem goto_txrdy (l : Label) (s : State) : (goto l s).txrdy = s.txrdy := rfl
@[simp] theorem goto_rxdr (l : Label) (s : State) : (goto l s).rxdr = s.rxdr := rfl
@[simp] theorem goto_txdr (l : Label) (s : State) : (goto l s).txdr = s.txdr := rfl
@[simp] theorem goto_baudcfg (l : Label) (s : State) : (goto l s).baudcfg = s.baudcfg := rfl
@[simp] theorem goto_inited (l : Label) (s : State) : (goto l s).inited = s.inited := rfl
@[simp] theorem goto_res (l : Label) (s : State) : (goto l s).res = s.res := rfl
@[simp] theorem goto_fcause (l : Label) (s : State) : (goto l s).fcause = s.fcause := rfl
@[simp] theorem goto_fword (l : Label) (s : State) : (goto l s).fword = s.fword := rfl
@[simp] theorem goto_faddr (l : Label) (s : State) : (goto l s).faddr = s.faddr := rfl
@[simp] theorem goto_refused (l : Label) (s : State) : (goto l s).refused = s.refused := rfl
@[simp] theorem goto_gstkRx (l : Label) (s : State) : (goto l s).gstkRx = s.gstkRx := rfl
@[simp] theorem goto_gstkTx (l : Label) (s : State) : (goto l s).gstkTx = s.gstkTx := rfl
@[simp] theorem goto_cpc (l : Label) (s : State) : (goto l s).cpc = s.cpc := rfl
@[simp] theorem goto_data (l : Label) (s : State) : (goto l s).data = s.data := rfl
@[simp] theorem goto_prog (l : Label) (s : State) : (goto l s).prog = s.prog := rfl
@[simp] theorem goto_lineOut (l : Label) (s : State) : (goto l s).lineOut = s.lineOut := rfl
@[simp] theorem goto_rxDropped (l : Label) (s : State) : (goto l s).rxDropped = s.rxDropped := rfl
@[simp] theorem goto_lineLost (l : Label) (s : State) : (goto l s).lineLost = s.lineLost := rfl
@[simp] theorem goto_linPos (l : Label) (s : State) : (goto l s).linPos = s.linPos := rfl
@[simp] theorem goto_test (l : Label) (s : State) : (goto l s).test = s.test := rfl
@[simp] theorem goto_sched (l : Label) (s : State) : (goto l s).sched = s.sched := rfl
@[simp] theorem goto_turnNo (l : Label) (s : State) : (goto l s).turnNo = s.turnNo := rfl

@[simp] theorem goto_loc (l : Label) (s : State) : (goto l s).loc = { s.loc with label := l } := rfl

/-! ## `done` -/

@[simp] theorem finish_cfg (s : State) : (finish s).cfg = s.cfg := rfl
@[simp] theorem finish_rxf (s : State) : (finish s).rxf = s.rxf := rfl
@[simp] theorem finish_txf (s : State) : (finish s).txf = s.txf := rfl
@[simp] theorem finish_nlcnt (s : State) : (finish s).nlcnt = s.nlcnt := rfl
@[simp] theorem finish_rxie (s : State) : (finish s).rxie = s.rxie := rfl
@[simp] theorem finish_txie (s : State) : (finish s).txie = s.txie := rfl
@[simp] theorem finish_rxc (s : State) : (finish s).rxc = s.rxc := rfl
@[simp] theorem finish_txrdy (s : State) : (finish s).txrdy = s.txrdy := rfl
@[simp] theorem finish_rxdr (s : State) : (finish s).rxdr = s.rxdr := rfl
@[simp] theorem finish_txdr (s : State) : (finish s).txdr = s.txdr := rfl
@[simp] theorem finish_baudcfg (s : State) : (finish s).baudcfg = s.baudcfg := rfl
@[simp] theorem finish_inited (s : State) : (finish s).inited = s.inited := rfl
@[simp] theorem finish_res (s : State) : (finish s).res = s.res := rfl
@[simp] theorem finish_fcause (s : State) : (finish s).fcause = s.fcause := rfl
@[simp] theorem finish_fword (s : State) : (finish s).fword = s.fword := rfl
@[simp] theorem finish_faddr (s : State) : (finish s).faddr = s.faddr := rfl
@[simp] theorem finish_refused (s : State) : (finish s).refused = s.refused := rfl
@[simp] theorem finish_gstkRx (s : State) : (finish s).gstkRx = s.gstkRx := rfl
@[simp] theorem finish_gstkTx (s : State) : (finish s).gstkTx = s.gstkTx := rfl
@[simp] theorem finish_cpc (s : State) : (finish s).cpc = s.cpc := rfl
@[simp] theorem finish_data (s : State) : (finish s).data = s.data := rfl
@[simp] theorem finish_prog (s : State) : (finish s).prog = s.prog := rfl
@[simp] theorem finish_lineOut (s : State) : (finish s).lineOut = s.lineOut := rfl
@[simp] theorem finish_rxDropped (s : State) : (finish s).rxDropped = s.rxDropped := rfl
@[simp] theorem finish_lineLost (s : State) : (finish s).lineLost = s.lineLost := rfl
@[simp] theorem finish_linPos (s : State) : (finish s).linPos = s.linPos := rfl
@[simp] theorem finish_test (s : State) : (finish s).test = s.test := rfl
@[simp] theorem finish_sched (s : State) : (finish s).sched = s.sched := rfl
@[simp] theorem finish_turnNo (s : State) : (finish s).turnNo = s.turnNo := rfl

@[simp] theorem finish_loc (s : State) : (finish s).loc = { s.loc with busy := false } := rfl

/-! ## RES of the standalone instance -/

@[simp] theorem setTestRes_cfg (v : Half) (s : State) : (s.setTestRes v).cfg = s.cfg := rfl
@[simp] theorem setTestRes_rxf (v : Half) (s : State) : (s.setTestRes v).rxf = s.rxf := rfl
@[simp] theorem setTestRes_txf (v : Half) (s : State) : (s.setTestRes v).txf = s.txf := rfl
@[simp] theorem setTestRes_nlcnt (v : Half) (s : State) : (s.setTestRes v).nlcnt = s.nlcnt := rfl
@[simp] theorem setTestRes_rxie (v : Half) (s : State) : (s.setTestRes v).rxie = s.rxie := rfl
@[simp] theorem setTestRes_txie (v : Half) (s : State) : (s.setTestRes v).txie = s.txie := rfl
@[simp] theorem setTestRes_rxc (v : Half) (s : State) : (s.setTestRes v).rxc = s.rxc := rfl
@[simp] theorem setTestRes_txrdy (v : Half) (s : State) : (s.setTestRes v).txrdy = s.txrdy := rfl
@[simp] theorem setTestRes_rxdr (v : Half) (s : State) : (s.setTestRes v).rxdr = s.rxdr := rfl
@[simp] theorem setTestRes_txdr (v : Half) (s : State) : (s.setTestRes v).txdr = s.txdr := rfl
@[simp] theorem setTestRes_baudcfg (v : Half) (s : State) : (s.setTestRes v).baudcfg = s.baudcfg := rfl
@[simp] theorem setTestRes_inited (v : Half) (s : State) : (s.setTestRes v).inited = s.inited := rfl
@[simp] theorem setTestRes_res (v : Half) (s : State) : (s.setTestRes v).res = s.res := rfl
@[simp] theorem setTestRes_fcause (v : Half) (s : State) : (s.setTestRes v).fcause = s.fcause := rfl
@[simp] theorem setTestRes_fword (v : Half) (s : State) : (s.setTestRes v).fword = s.fword := rfl
@[simp] theorem setTestRes_faddr (v : Half) (s : State) : (s.setTestRes v).faddr = s.faddr := rfl
@[simp] theorem setTestRes_refused (v : Half) (s : State) : (s.setTestRes v).refused = s.refused := rfl
@[simp] theorem setTestRes_gstkRx (v : Half) (s : State) : (s.setTestRes v).gstkRx = s.gstkRx := rfl
@[simp] theorem setTestRes_gstkTx (v : Half) (s : State) : (s.setTestRes v).gstkTx = s.gstkTx := rfl
@[simp] theorem setTestRes_cpc (v : Half) (s : State) : (s.setTestRes v).cpc = s.cpc := rfl
@[simp] theorem setTestRes_loc (v : Half) (s : State) : (s.setTestRes v).loc = s.loc := rfl
@[simp] theorem setTestRes_data (v : Half) (s : State) : (s.setTestRes v).data = s.data := rfl
@[simp] theorem setTestRes_prog (v : Half) (s : State) : (s.setTestRes v).prog = s.prog := rfl
@[simp] theorem setTestRes_lineOut (v : Half) (s : State) : (s.setTestRes v).lineOut = s.lineOut := rfl
@[simp] theorem setTestRes_rxDropped (v : Half) (s : State) : (s.setTestRes v).rxDropped = s.rxDropped := rfl
@[simp] theorem setTestRes_lineLost (v : Half) (s : State) : (s.setTestRes v).lineLost = s.lineLost := rfl
@[simp] theorem setTestRes_linPos (v : Half) (s : State) : (s.setTestRes v).linPos = s.linPos := rfl
@[simp] theorem setTestRes_sched (v : Half) (s : State) : (s.setTestRes v).sched = s.sched := rfl
@[simp] theorem setTestRes_turnNo (v : Half) (s : State) : (s.setTestRes v).turnNo = s.turnNo := rfl

@[simp] theorem setTestRes_test (v : Half) (s : State) : (s.setTestRes v).test = { s.test with res := v } := rfl

/-! ## Enable bits -/

@[simp] theorem setIe_cfg (f : Source) (b : Bool) (s : State) : (s.setIe f b).cfg = s.cfg := by cases f <;> rfl
@[simp] theorem setIe_rxf (f : Source) (b : Bool) (s : State) : (s.setIe f b).rxf = s.rxf := by cases f <;> rfl
@[simp] theorem setIe_txf (f : Source) (b : Bool) (s : State) : (s.setIe f b).txf = s.txf := by cases f <;> rfl
@[simp] theorem setIe_nlcnt (f : Source) (b : Bool) (s : State) : (s.setIe f b).nlcnt = s.nlcnt := by cases f <;> rfl
@[simp] theorem setIe_rxc (f : Source) (b : Bool) (s : State) : (s.setIe f b).rxc = s.rxc := by cases f <;> rfl
@[simp] theorem setIe_txrdy (f : Source) (b : Bool) (s : State) : (s.setIe f b).txrdy = s.txrdy := by cases f <;> rfl
@[simp] theorem setIe_rxdr (f : Source) (b : Bool) (s : State) : (s.setIe f b).rxdr = s.rxdr := by cases f <;> rfl
@[simp] theorem setIe_txdr (f : Source) (b : Bool) (s : State) : (s.setIe f b).txdr = s.txdr := by cases f <;> rfl
@[simp] theorem setIe_baudcfg (f : Source) (b : Bool) (s : State) : (s.setIe f b).baudcfg = s.baudcfg := by cases f <;> rfl
@[simp] theorem setIe_inited (f : Source) (b : Bool) (s : State) : (s.setIe f b).inited = s.inited := by cases f <;> rfl
@[simp] theorem setIe_res (f : Source) (b : Bool) (s : State) : (s.setIe f b).res = s.res := by cases f <;> rfl
@[simp] theorem setIe_fcause (f : Source) (b : Bool) (s : State) : (s.setIe f b).fcause = s.fcause := by cases f <;> rfl
@[simp] theorem setIe_fword (f : Source) (b : Bool) (s : State) : (s.setIe f b).fword = s.fword := by cases f <;> rfl
@[simp] theorem setIe_faddr (f : Source) (b : Bool) (s : State) : (s.setIe f b).faddr = s.faddr := by cases f <;> rfl
@[simp] theorem setIe_refused (f : Source) (b : Bool) (s : State) : (s.setIe f b).refused = s.refused := by cases f <;> rfl
@[simp] theorem setIe_gstkRx (f : Source) (b : Bool) (s : State) : (s.setIe f b).gstkRx = s.gstkRx := by cases f <;> rfl
@[simp] theorem setIe_gstkTx (f : Source) (b : Bool) (s : State) : (s.setIe f b).gstkTx = s.gstkTx := by cases f <;> rfl
@[simp] theorem setIe_cpc (f : Source) (b : Bool) (s : State) : (s.setIe f b).cpc = s.cpc := by cases f <;> rfl
@[simp] theorem setIe_loc (f : Source) (b : Bool) (s : State) : (s.setIe f b).loc = s.loc := by cases f <;> rfl
@[simp] theorem setIe_data (f : Source) (b : Bool) (s : State) : (s.setIe f b).data = s.data := by cases f <;> rfl
@[simp] theorem setIe_prog (f : Source) (b : Bool) (s : State) : (s.setIe f b).prog = s.prog := by cases f <;> rfl
@[simp] theorem setIe_lineOut (f : Source) (b : Bool) (s : State) : (s.setIe f b).lineOut = s.lineOut := by cases f <;> rfl
@[simp] theorem setIe_rxDropped (f : Source) (b : Bool) (s : State) : (s.setIe f b).rxDropped = s.rxDropped := by cases f <;> rfl
@[simp] theorem setIe_lineLost (f : Source) (b : Bool) (s : State) : (s.setIe f b).lineLost = s.lineLost := by cases f <;> rfl
@[simp] theorem setIe_linPos (f : Source) (b : Bool) (s : State) : (s.setIe f b).linPos = s.linPos := by cases f <;> rfl
@[simp] theorem setIe_test (f : Source) (b : Bool) (s : State) : (s.setIe f b).test = s.test := by cases f <;> rfl
@[simp] theorem setIe_sched (f : Source) (b : Bool) (s : State) : (s.setIe f b).sched = s.sched := by cases f <;> rfl
@[simp] theorem setIe_turnNo (f : Source) (b : Bool) (s : State) : (s.setIe f b).turnNo = s.turnNo := by cases f <;> rfl

@[simp] theorem setIe_rx_rxie (b : Bool) (s : State) : (s.setIe .rx b).rxie = b := rfl
@[simp] theorem setIe_rx_txie (b : Bool) (s : State) : (s.setIe .rx b).txie = s.txie := rfl
@[simp] theorem setIe_tx_txie (b : Bool) (s : State) : (s.setIe .tx b).txie = b := rfl
@[simp] theorem setIe_tx_rxie (b : Bool) (s : State) : (s.setIe .tx b).rxie = s.rxie := rfl

/-! ## Guard save stacks -/

@[simp] theorem setGstk_cfg (f : Source) (g : List Bool) (s : State) : (s.setGstk f g).cfg = s.cfg := by cases f <;> rfl
@[simp] theorem setGstk_rxf (f : Source) (g : List Bool) (s : State) : (s.setGstk f g).rxf = s.rxf := by cases f <;> rfl
@[simp] theorem setGstk_txf (f : Source) (g : List Bool) (s : State) : (s.setGstk f g).txf = s.txf := by cases f <;> rfl
@[simp] theorem setGstk_nlcnt (f : Source) (g : List Bool) (s : State) : (s.setGstk f g).nlcnt = s.nlcnt := by cases f <;> rfl
@[simp] theorem setGstk_rxie (f : Source) (g : List Bool) (s : State) : (s.setGstk f g).rxie = s.rxie := by cases f <;> rfl
@[simp] theorem setGstk_txie (f : Source) (g : List Bool) (s : State) : (s.setGstk f g).txie = s.txie := by cases f <;> rfl
@[simp] theorem setGstk_rxc (f : Source) (g : List Bool) (s : State) : (s.setGstk f g).rxc = s.rxc := by cases f <;> rfl
@[simp] theorem setGstk_txrdy (f : Source) (g : List Bool) (s : State) : (s.setGstk f g).txrdy = s.txrdy := by cases f <;> rfl
@[simp] theorem setGstk_rxdr (f : Source) (g : List Bool) (s : State) : (s.setGstk f g).rxdr = s.rxdr := by cases f <;> rfl
@[simp] theorem setGstk_txdr (f : Source) (g : List Bool) (s : State) : (s.setGstk f g).txdr = s.txdr := by cases f <;> rfl
@[simp] theorem setGstk_baudcfg (f : Source) (g : List Bool) (s : State) : (s.setGstk f g).baudcfg = s.baudcfg := by cases f <;> rfl
@[simp] theorem setGstk_inited (f : Source) (g : List Bool) (s : State) : (s.setGstk f g).inited = s.inited := by cases f <;> rfl
@[simp] theorem setGstk_res (f : Source) (g : List Bool) (s : State) : (s.setGstk f g).res = s.res := by cases f <;> rfl
@[simp] theorem setGstk_fcause (f : Source) (g : List Bool) (s : State) : (s.setGstk f g).fcause = s.fcause := by cases f <;> rfl
@[simp] theorem setGstk_fword (f : Source) (g : List Bool) (s : State) : (s.setGstk f g).fword = s.fword := by cases f <;> rfl
@[simp] theorem setGstk_faddr (f : Source) (g : List Bool) (s : State) : (s.setGstk f g).faddr = s.faddr := by cases f <;> rfl
@[simp] theorem setGstk_refused (f : Source) (g : List Bool) (s : State) : (s.setGstk f g).refused = s.refused := by cases f <;> rfl
@[simp] theorem setGstk_cpc (f : Source) (g : List Bool) (s : State) : (s.setGstk f g).cpc = s.cpc := by cases f <;> rfl
@[simp] theorem setGstk_loc (f : Source) (g : List Bool) (s : State) : (s.setGstk f g).loc = s.loc := by cases f <;> rfl
@[simp] theorem setGstk_data (f : Source) (g : List Bool) (s : State) : (s.setGstk f g).data = s.data := by cases f <;> rfl
@[simp] theorem setGstk_prog (f : Source) (g : List Bool) (s : State) : (s.setGstk f g).prog = s.prog := by cases f <;> rfl
@[simp] theorem setGstk_lineOut (f : Source) (g : List Bool) (s : State) : (s.setGstk f g).lineOut = s.lineOut := by cases f <;> rfl
@[simp] theorem setGstk_rxDropped (f : Source) (g : List Bool) (s : State) : (s.setGstk f g).rxDropped = s.rxDropped := by cases f <;> rfl
@[simp] theorem setGstk_lineLost (f : Source) (g : List Bool) (s : State) : (s.setGstk f g).lineLost = s.lineLost := by cases f <;> rfl
@[simp] theorem setGstk_linPos (f : Source) (g : List Bool) (s : State) : (s.setGstk f g).linPos = s.linPos := by cases f <;> rfl
@[simp] theorem setGstk_test (f : Source) (g : List Bool) (s : State) : (s.setGstk f g).test = s.test := by cases f <;> rfl
@[simp] theorem setGstk_sched (f : Source) (g : List Bool) (s : State) : (s.setGstk f g).sched = s.sched := by cases f <;> rfl
@[simp] theorem setGstk_turnNo (f : Source) (g : List Bool) (s : State) : (s.setGstk f g).turnNo = s.turnNo := by cases f <;> rfl

@[simp] theorem setGstk_rx_gstkRx (g : List Bool) (s : State) : (s.setGstk .rx g).gstkRx = g := rfl
@[simp] theorem setGstk_rx_gstkTx (g : List Bool) (s : State) : (s.setGstk .rx g).gstkTx = s.gstkTx := rfl
@[simp] theorem setGstk_tx_gstkTx (g : List Bool) (s : State) : (s.setGstk .tx g).gstkTx = g := rfl
@[simp] theorem setGstk_tx_gstkRx (g : List Bool) (s : State) : (s.setGstk .tx g).gstkRx = s.gstkRx := rfl

/-! ## The fault record -/

@[simp] theorem raiseFault_cfg (c : Cause) (a : Half) (s : State) : (raiseFault c a s).cfg = s.cfg := by unfold raiseFault; split <;> rfl
@[simp] theorem raiseFault_rxf (c : Cause) (a : Half) (s : State) : (raiseFault c a s).rxf = s.rxf := by unfold raiseFault; split <;> rfl
@[simp] theorem raiseFault_txf (c : Cause) (a : Half) (s : State) : (raiseFault c a s).txf = s.txf := by unfold raiseFault; split <;> rfl
@[simp] theorem raiseFault_nlcnt (c : Cause) (a : Half) (s : State) : (raiseFault c a s).nlcnt = s.nlcnt := by unfold raiseFault; split <;> rfl
@[simp] theorem raiseFault_rxie (c : Cause) (a : Half) (s : State) : (raiseFault c a s).rxie = s.rxie := by unfold raiseFault; split <;> rfl
@[simp] theorem raiseFault_txie (c : Cause) (a : Half) (s : State) : (raiseFault c a s).txie = s.txie := by unfold raiseFault; split <;> rfl
@[simp] theorem raiseFault_rxc (c : Cause) (a : Half) (s : State) : (raiseFault c a s).rxc = s.rxc := by unfold raiseFault; split <;> rfl
@[simp] theorem raiseFault_txrdy (c : Cause) (a : Half) (s : State) : (raiseFault c a s).txrdy = s.txrdy := by unfold raiseFault; split <;> rfl
@[simp] theorem raiseFault_rxdr (c : Cause) (a : Half) (s : State) : (raiseFault c a s).rxdr = s.rxdr := by unfold raiseFault; split <;> rfl
@[simp] theorem raiseFault_txdr (c : Cause) (a : Half) (s : State) : (raiseFault c a s).txdr = s.txdr := by unfold raiseFault; split <;> rfl
@[simp] theorem raiseFault_baudcfg (c : Cause) (a : Half) (s : State) : (raiseFault c a s).baudcfg = s.baudcfg := by unfold raiseFault; split <;> rfl
@[simp] theorem raiseFault_inited (c : Cause) (a : Half) (s : State) : (raiseFault c a s).inited = s.inited := by unfold raiseFault; split <;> rfl
@[simp] theorem raiseFault_res (c : Cause) (a : Half) (s : State) : (raiseFault c a s).res = s.res := by unfold raiseFault; split <;> rfl
@[simp] theorem raiseFault_refused (c : Cause) (a : Half) (s : State) : (raiseFault c a s).refused = s.refused := by unfold raiseFault; split <;> rfl
@[simp] theorem raiseFault_gstkRx (c : Cause) (a : Half) (s : State) : (raiseFault c a s).gstkRx = s.gstkRx := by unfold raiseFault; split <;> rfl
@[simp] theorem raiseFault_gstkTx (c : Cause) (a : Half) (s : State) : (raiseFault c a s).gstkTx = s.gstkTx := by unfold raiseFault; split <;> rfl
@[simp] theorem raiseFault_cpc (c : Cause) (a : Half) (s : State) : (raiseFault c a s).cpc = s.cpc := by unfold raiseFault; split <;> rfl
@[simp] theorem raiseFault_loc (c : Cause) (a : Half) (s : State) : (raiseFault c a s).loc = s.loc := by unfold raiseFault; split <;> rfl
@[simp] theorem raiseFault_data (c : Cause) (a : Half) (s : State) : (raiseFault c a s).data = s.data := by unfold raiseFault; split <;> rfl
@[simp] theorem raiseFault_prog (c : Cause) (a : Half) (s : State) : (raiseFault c a s).prog = s.prog := by unfold raiseFault; split <;> rfl
@[simp] theorem raiseFault_lineOut (c : Cause) (a : Half) (s : State) : (raiseFault c a s).lineOut = s.lineOut := by unfold raiseFault; split <;> rfl
@[simp] theorem raiseFault_rxDropped (c : Cause) (a : Half) (s : State) : (raiseFault c a s).rxDropped = s.rxDropped := by unfold raiseFault; split <;> rfl
@[simp] theorem raiseFault_lineLost (c : Cause) (a : Half) (s : State) : (raiseFault c a s).lineLost = s.lineLost := by unfold raiseFault; split <;> rfl
@[simp] theorem raiseFault_linPos (c : Cause) (a : Half) (s : State) : (raiseFault c a s).linPos = s.linPos := by unfold raiseFault; split <;> rfl
@[simp] theorem raiseFault_test (c : Cause) (a : Half) (s : State) : (raiseFault c a s).test = s.test := by unfold raiseFault; split <;> rfl
@[simp] theorem raiseFault_sched (c : Cause) (a : Half) (s : State) : (raiseFault c a s).sched = s.sched := by unfold raiseFault; split <;> rfl
@[simp] theorem raiseFault_turnNo (c : Cause) (a : Half) (s : State) : (raiseFault c a s).turnNo = s.turnNo := by unfold raiseFault; split <;> rfl

/-! ## The refusal record -/

@[simp] theorem refuse_cfg (c : Cause) (s : State) : (refuse c s).cfg = s.cfg := by unfold refuse; split <;> rfl
@[simp] theorem refuse_rxf (c : Cause) (s : State) : (refuse c s).rxf = s.rxf := by unfold refuse; split <;> rfl
@[simp] theorem refuse_txf (c : Cause) (s : State) : (refuse c s).txf = s.txf := by unfold refuse; split <;> rfl
@[simp] theorem refuse_nlcnt (c : Cause) (s : State) : (refuse c s).nlcnt = s.nlcnt := by unfold refuse; split <;> rfl
@[simp] theorem refuse_rxie (c : Cause) (s : State) : (refuse c s).rxie = s.rxie := by unfold refuse; split <;> rfl
@[simp] theorem refuse_txie (c : Cause) (s : State) : (refuse c s).txie = s.txie := by unfold refuse; split <;> rfl
@[simp] theorem refuse_rxc (c : Cause) (s : State) : (refuse c s).rxc = s.rxc := by unfold refuse; split <;> rfl
@[simp] theorem refuse_txrdy (c : Cause) (s : State) : (refuse c s).txrdy = s.txrdy := by unfold refuse; split <;> rfl
@[simp] theorem refuse_rxdr (c : Cause) (s : State) : (refuse c s).rxdr = s.rxdr := by unfold refuse; split <;> rfl
@[simp] theorem refuse_txdr (c : Cause) (s : State) : (refuse c s).txdr = s.txdr := by unfold refuse; split <;> rfl
@[simp] theorem refuse_baudcfg (c : Cause) (s : State) : (refuse c s).baudcfg = s.baudcfg := by unfold refuse; split <;> rfl
@[simp] theorem refuse_inited (c : Cause) (s : State) : (refuse c s).inited = s.inited := by unfold refuse; split <;> rfl
@[simp] theorem refuse_res (c : Cause) (s : State) : (refuse c s).res = s.res := by unfold refuse; split <;> rfl
@[simp] theorem refuse_faddr (c : Cause) (s : State) : (refuse c s).faddr = s.faddr := by unfold refuse; split <;> rfl
@[simp] theorem refuse_gstkRx (c : Cause) (s : State) : (refuse c s).gstkRx = s.gstkRx := by unfold refuse; split <;> rfl
@[simp] theorem refuse_gstkTx (c : Cause) (s : State) : (refuse c s).gstkTx = s.gstkTx := by unfold refuse; split <;> rfl
@[simp] theorem refuse_cpc (c : Cause) (s : State) : (refuse c s).cpc = s.cpc := by unfold refuse; split <;> rfl
@[simp] theorem refuse_loc (c : Cause) (s : State) : (refuse c s).loc = s.loc := by unfold refuse; split <;> rfl
@[simp] theorem refuse_data (c : Cause) (s : State) : (refuse c s).data = s.data := by unfold refuse; split <;> rfl
@[simp] theorem refuse_prog (c : Cause) (s : State) : (refuse c s).prog = s.prog := by unfold refuse; split <;> rfl
@[simp] theorem refuse_lineOut (c : Cause) (s : State) : (refuse c s).lineOut = s.lineOut := by unfold refuse; split <;> rfl
@[simp] theorem refuse_rxDropped (c : Cause) (s : State) : (refuse c s).rxDropped = s.rxDropped := by unfold refuse; split <;> rfl
@[simp] theorem refuse_lineLost (c : Cause) (s : State) : (refuse c s).lineLost = s.lineLost := by unfold refuse; split <;> rfl
@[simp] theorem refuse_linPos (c : Cause) (s : State) : (refuse c s).linPos = s.linPos := by unfold refuse; split <;> rfl
@[simp] theorem refuse_test (c : Cause) (s : State) : (refuse c s).test = s.test := by unfold refuse; split <;> rfl
@[simp] theorem refuse_sched (c : Cause) (s : State) : (refuse c s).sched = s.sched := by unfold refuse; split <;> rfl
@[simp] theorem refuse_turnNo (c : Cause) (s : State) : (refuse c s).turnNo = s.turnNo := by unfold refuse; split <;> rfl

@[simp] theorem refuse_refused (c : Cause) (s : State) : (refuse c s).refused = true := by unfold refuse; split <;> rfl

/-! ## The newline count, up -/

@[simp] theorem countNewline_cfg (n : Byte) (s : State) : (countNewline n s).cfg = s.cfg := by unfold countNewline; split <;> rfl
@[simp] theorem countNewline_rxf (n : Byte) (s : State) : (countNewline n s).rxf = s.rxf := by unfold countNewline; split <;> rfl
@[simp] theorem countNewline_txf (n : Byte) (s : State) : (countNewline n s).txf = s.txf := by unfold countNewline; split <;> rfl
@[simp] theorem countNewline_rxie (n : Byte) (s : State) : (countNewline n s).rxie = s.rxie := by unfold countNewline; split <;> rfl
@[simp] theorem countNewline_txie (n : Byte) (s : State) : (countNewline n s).txie = s.txie := by unfold countNewline; split <;> rfl
@[simp] theorem countNewline_rxc (n : Byte) (s : State) : (countNewline n s).rxc = s.rxc := by unfold countNewline; split <;> rfl
@[simp] theorem countNewline_txrdy (n : Byte) (s : State) : (countNewline n s).txrdy = s.txrdy := by unfold countNewline; split <;> rfl
@[simp] theorem countNewline_rxdr (n : Byte) (s : State) : (countNewline n s).rxdr = s.rxdr := by unfold countNewline; split <;> rfl
@[simp] theorem countNewline_txdr (n : Byte) (s : State) : (countNewline n s).txdr = s.txdr := by unfold countNewline; split <;> rfl
@[simp] theorem countNewline_baudcfg (n : Byte) (s : State) : (countNewline n s).baudcfg = s.baudcfg := by unfold countNewline; split <;> rfl
@[simp] theorem countNewline_inited (n : Byte) (s : State) : (countNewline n s).inited = s.inited := by unfold countNewline; split <;> rfl
@[simp] theorem countNewline_res (n : Byte) (s : State) : (countNewline n s).res = s.res := by unfold countNewline; split <;> rfl
@[simp] theorem countNewline_fcause (n : Byte) (s : State) : (countNewline n s).fcause = s.fcause := by unfold countNewline; split <;> rfl
@[simp] theorem countNewline_fword (n : Byte) (s : State) : (countNewline n s).fword = s.fword := by unfold countNewline; split <;> rfl
@[simp] theorem countNewline_faddr (n : Byte) (s : State) : (countNewline n s).faddr = s.faddr := by unfold countNewline; split <;> rfl
@[simp] theorem countNewline_refused (n : Byte) (s : State) : (countNewline n s).refused = s.refused := by unfold countNewline; split <;> rfl
@[simp] theorem countNewline_gstkRx (n : Byte) (s : State) : (countNewline n s).gstkRx = s.gstkRx := by unfold countNewline; split <;> rfl
@[simp] theorem countNewline_gstkTx (n : Byte) (s : State) : (countNewline n s).gstkTx = s.gstkTx := by unfold countNewline; split <;> rfl
@[simp] theorem countNewline_cpc (n : Byte) (s : State) : (countNewline n s).cpc = s.cpc := by unfold countNewline; split <;> rfl
@[simp] theorem countNewline_loc (n : Byte) (s : State) : (countNewline n s).loc = s.loc := by unfold countNewline; split <;> rfl
@[simp] theorem countNewline_data (n : Byte) (s : State) : (countNewline n s).data = s.data := by unfold countNewline; split <;> rfl
@[simp] theorem countNewline_prog (n : Byte) (s : State) : (countNewline n s).prog = s.prog := by unfold countNewline; split <;> rfl
@[simp] theorem countNewline_lineOut (n : Byte) (s : State) : (countNewline n s).lineOut = s.lineOut := by unfold countNewline; split <;> rfl
@[simp] theorem countNewline_rxDropped (n : Byte) (s : State) : (countNewline n s).rxDropped = s.rxDropped := by unfold countNewline; split <;> rfl
@[simp] theorem countNewline_lineLost (n : Byte) (s : State) : (countNewline n s).lineLost = s.lineLost := by unfold countNewline; split <;> rfl
@[simp] theorem countNewline_linPos (n : Byte) (s : State) : (countNewline n s).linPos = s.linPos := by unfold countNewline; split <;> rfl
@[simp] theorem countNewline_test (n : Byte) (s : State) : (countNewline n s).test = s.test := by unfold countNewline; split <;> rfl
@[simp] theorem countNewline_sched (n : Byte) (s : State) : (countNewline n s).sched = s.sched := by unfold countNewline; split <;> rfl
@[simp] theorem countNewline_turnNo (n : Byte) (s : State) : (countNewline n s).turnNo = s.turnNo := by unfold countNewline; split <;> rfl

/-! ## The newline count, down -/

@[simp] theorem uncountNewline_cfg (n : Byte) (s : State) : (uncountNewline n s).cfg = s.cfg := by unfold uncountNewline; split <;> rfl
@[simp] theorem uncountNewline_rxf (n : Byte) (s : State) : (uncountNewline n s).rxf = s.rxf := by unfold uncountNewline; split <;> rfl
@[simp] theorem uncountNewline_txf (n : Byte) (s : State) : (uncountNewline n s).txf = s.txf := by unfold uncountNewline; split <;> rfl
@[simp] theorem uncountNewline_rxie (n : Byte) (s : State) : (uncountNewline n s).rxie = s.rxie := by unfold uncountNewline; split <;> rfl
@[simp] theorem uncountNewline_txie (n : Byte) (s : State) : (uncountNewline n s).txie = s.txie := by unfold uncountNewline; split <;> rfl
@[simp] theorem uncountNewline_rxc (n : Byte) (s : State) : (uncountNewline n s).rxc = s.rxc := by unfold uncountNewline; split <;> rfl
@[simp] theorem uncountNewline_txrdy (n : Byte) (s : State) : (uncountNewline n s).txrdy = s.txrdy := by unfold uncountNewline; split <;> rfl
@[simp] theorem uncountNewline_rxdr (n : Byte) (s : State) : (uncountNewline n s).rxdr = s.rxdr := by unfold uncountNewline; split <;> rfl
@[simp] theorem uncountNewline_txdr (n : Byte) (s : State) : (uncountNewline n s).txdr = s.txdr := by unfold uncountNewline; split <;> rfl
@[simp] theorem uncountNewline_baudcfg (n : Byte) (s : State) : (uncountNewline n s).baudcfg = s.baudcfg := by unfold uncountNewline; split <;> rfl
@[simp] theorem uncountNewline_inited (n : Byte) (s : State) : (uncountNewline n s).inited = s.inited := by unfold uncountNewline; split <;> rfl
@[simp] theorem uncountNewline_res (n : Byte) (s : State) : (uncountNewline n s).res = s.res := by unfold uncountNewline; split <;> rfl
@[simp] theorem uncountNewline_fcause (n : Byte) (s : State) : (uncountNewline n s).fcause = s.fcause := by unfold uncountNewline; split <;> rfl
@[simp] theorem uncountNewline_fword (n : Byte) (s : State) : (uncountNewline n s).fword = s.fword := by unfold uncountNewline; split <;> rfl
@[simp] theorem uncountNewline_faddr (n : Byte) (s : State) : (uncountNewline n s).faddr = s.faddr := by unfold uncountNewline; split <;> rfl
@[simp] theorem uncountNewline_refused (n : Byte) (s : State) : (uncountNewline n s).refused = s.refused := by unfold uncountNewline; split <;> rfl
@[simp] theorem uncountNewline_gstkRx (n : Byte) (s : State) : (uncountNewline n s).gstkRx = s.gstkRx := by unfold uncountNewline; split <;> rfl
@[simp] theorem uncountNewline_gstkTx (n : Byte) (s : State) : (uncountNewline n s).gstkTx = s.gstkTx := by unfold uncountNewline; split <;> rfl
@[simp] theorem uncountNewline_cpc (n : Byte) (s : State) : (uncountNewline n s).cpc = s.cpc := by unfold uncountNewline; split <;> rfl
@[simp] theorem uncountNewline_loc (n : Byte) (s : State) : (uncountNewline n s).loc = s.loc := by unfold uncountNewline; split <;> rfl
@[simp] theorem uncountNewline_data (n : Byte) (s : State) : (uncountNewline n s).data = s.data := by unfold uncountNewline; split <;> rfl
@[simp] theorem uncountNewline_prog (n : Byte) (s : State) : (uncountNewline n s).prog = s.prog := by unfold uncountNewline; split <;> rfl
@[simp] theorem uncountNewline_lineOut (n : Byte) (s : State) : (uncountNewline n s).lineOut = s.lineOut := by unfold uncountNewline; split <;> rfl
@[simp] theorem uncountNewline_rxDropped (n : Byte) (s : State) : (uncountNewline n s).rxDropped = s.rxDropped := by unfold uncountNewline; split <;> rfl
@[simp] theorem uncountNewline_lineLost (n : Byte) (s : State) : (uncountNewline n s).lineLost = s.lineLost := by unfold uncountNewline; split <;> rfl
@[simp] theorem uncountNewline_linPos (n : Byte) (s : State) : (uncountNewline n s).linPos = s.linPos := by unfold uncountNewline; split <;> rfl
@[simp] theorem uncountNewline_test (n : Byte) (s : State) : (uncountNewline n s).test = s.test := by unfold uncountNewline; split <;> rfl
@[simp] theorem uncountNewline_sched (n : Byte) (s : State) : (uncountNewline n s).sched = s.sched := by unfold uncountNewline; split <;> rfl
@[simp] theorem uncountNewline_turnNo (n : Byte) (s : State) : (uncountNewline n s).turnNo = s.turnNo := by unfold uncountNewline; split <;> rfl

/-! ## Views -/

@[simp] theorem setIe_ie_same (f : Source) (b : Bool) (s : State) : (s.setIe f b).ie f = b := by cases f <;> rfl

@[simp] theorem setGstk_gstk_same (f : Source) (g : List Bool) (s : State) : (s.setGstk f g).gstk f = g := by
  cases f <;> rfl

@[simp] theorem setIe_gstk (f h : Source) (b : Bool) (s : State) : (s.setIe f b).gstk h = s.gstk h := by
  cases f <;> cases h <;> rfl

@[simp] theorem setGstk_ie (f h : Source) (g : List Bool) (s : State) : (s.setGstk f g).ie h = s.ie h := by
  cases f <;> cases h <;> rfl

@[simp] theorem finish_ie (f : Source) (s : State) : (finish s).ie f = s.ie f := by cases f <;> rfl

@[simp] theorem finish_gstk (f : Source) (s : State) : (finish s).gstk f = s.gstk f := by cases f <;> rfl

theorem gsp_eq_length (f : Source) (s : State) : s.gsp f = (s.gstk f).length := by cases f <;> rfl

/-- Nothing that decides whether a transition is enabled lies in the scheduler's bookkeeping. -/
@[simp] theorem tick_enabled (t : Turn) (s : State) : (tick s).enabled t = s.enabled t := by
  cases t with
  | i f => cases f <;> rfl
  | e f => cases f <;> rfl
  | m => rfl
  | test => rfl

/-! ## What a raise or a refusal records -/

/-- Everything `raiseFault` can do. -/
theorem raiseFault_cases (c : Cause) (a : Half) (s : State) :
    (s.fcause = 0 ∧ raiseFault c a s = { s with fcause := c.code, fword := s.loc.cur0, faddr := a }) ∨
      (s.fcause ≠ 0 ∧ raiseFault c a s = s) := by
  unfold raiseFault
  split
  · exact .inl ⟨‹_›, rfl⟩
  · exact .inr ⟨‹_›, rfl⟩

/-- Everything `refuse` can do. -/
theorem refuse_cases (c : Cause) (s : State) :
    (s.fcause = 0 ∧ refuse c s = { s with refused := true, fcause := c.code, fword := s.loc.cur0 }) ∨
      (s.fcause ≠ 0 ∧ refuse c s = { s with refused := true }) := by
  unfold refuse
  split
  · exact .inl ⟨‹_›, rfl⟩
  · exact .inr ⟨‹_›, rfl⟩

theorem Cause.code_ne_zero (c : Cause) : c.code ≠ 0 := by cases c <;> decide

/-- A raise leaves agent M stopped. -/
theorem raiseFault_stops (c : Cause) (a : Half) (s : State) : (raiseFault c a s).fcause ≠ 0 := by
  rcases raiseFault_cases c a s with ⟨_, e⟩ | ⟨h, e⟩
  · rw [e]; exact Cause.code_ne_zero c
  · rwa [e]

/-- A refusal leaves agent M stopped. -/
theorem refuse_stops (c : Cause) (s : State) : (refuse c s).fcause ≠ 0 := by
  rcases refuse_cases c s with ⟨_, e⟩ | ⟨h, e⟩
  · rw [e]; exact Cause.code_ne_zero c
  · rwa [e]

end Sys2Proof.Machine
end

