-- ==== Sys2Proof/Laws/Steps.lean ====
section
/-! SUPPORT. What each shared step of a microprogram, a fetch and a scheduled step can do, said once: every lemma lists
all the next states with their guards, as whole states. -/

namespace Sys2Proof.Machine

/-- The newline count as a field. -/
theorem uncountNewline_eq (b : Byte) (s : State) :
    uncountNewline b s = { s with nlcnt := if b = newline then s.nlcnt - 1 else s.nlcnt } := by
  unfold uncountNewline
  split <;> rfl

theorem countNewline_eq (b : Byte) (s : State) :
    countNewline b s = { s with nlcnt := if b = newline then s.nlcnt + 1 else s.nlcnt } := by
  unfold countNewline
  split <;> rfl

theorem setIe_rx (b : Bool) (s : State) : s.setIe .rx b = { s with rxie := b } := rfl

theorem setIe_tx (b : Bool) (s : State) : s.setIe .tx b = { s with txie := b } := rfl

/-- L0 of RX_READ_UNTIL. -/
theorem readUntilEnter_cases (a n : Half) (t : Byte) (next : Label) (s : State) :
    (t ≠ 0 ∧ n = 0 ∧ readUntilEnter a n t next s = raiseFault .usageFault 0 s) ∨
      (¬ (t ≠ 0 ∧ n = 0) ∧ readUntilEnter a n t next s = { s with
        rxie := false,
        loc := { s.loc with
          addr := a, term := t, cnt := 0, mode := modeOf t, lim := limitOf t n, p := s.rxie, label := next } }) := by
  unfold readUntilEnter
  split
  · exact .inl ⟨‹_ ∧ _›.1, ‹_ ∧ _›.2, rfl⟩
  · exact .inr ⟨‹_›, rfl⟩

/-- One pass of L1 of RX_READ_UNTIL: the drain ends, the terminator ends it, the byte is stored, or the store
faults with the byte lost. -/
theorem readUntilPass_cases (again out : Label) (s : State) :
    ((s.loc.cnt = s.loc.lim.toNat ∨ s.rxf.isEmpty = true) ∧
        readUntilPass again out s = { s with loc.label := out }) ∨
      (s.loc.cnt ≠ s.loc.lim.toNat ∧ s.rxf.isEmpty = false ∧
        ((s.loc.mode = .string ∧ (s.rxf.read s.cfg.rxK).1 = s.loc.term ∧
            readUntilPass again out s = { s with
              rxf := (s.rxf.read s.cfg.rxK).2,
              nlcnt := if (s.rxf.read s.cfg.rxK).1 = newline then s.nlcnt - 1 else s.nlcnt,
              loc := { s.loc with c := (s.rxf.read s.cfg.rxK).1, label := out } }) ∨
          (¬ (s.loc.mode = .string ∧ (s.rxf.read s.cfg.rxK).1 = s.loc.term) ∧
            bufferByte s.loc.addr s.loc.cnt ≤ topAddress ∧
            readUntilPass again out s = { s with
              rxf := (s.rxf.read s.cfg.rxK).2,
              nlcnt := if (s.rxf.read s.cfg.rxK).1 = newline then s.nlcnt - 1 else s.nlcnt,
              data := s.data.write (bufferByte s.loc.addr s.loc.cnt) (s.rxf.read s.cfg.rxK).1,
              loc := { s.loc with
                c := (s.rxf.read s.cfg.rxK).1, cnt := (s.loc.cnt + 1) % 2 ^ 16, label := again } }) ∨
          (¬ (s.loc.mode = .string ∧ (s.rxf.read s.cfg.rxK).1 = s.loc.term) ∧
            topAddress < bufferByte s.loc.addr s.loc.cnt ∧
            readUntilPass again out s =
              raiseFault .accessFault (BitVec.ofNat 16 (bufferByte s.loc.addr s.loc.cnt)) { s with
                rxf := (s.rxf.read s.cfg.rxK).2,
                nlcnt := if (s.rxf.read s.cfg.rxK).1 = newline then s.nlcnt - 1 else s.nlcnt,
                loc.c := (s.rxf.read s.cfg.rxK).1 }))) := by
  unfold readUntilPass
  split
  · exact .inl ⟨‹_›, rfl⟩
  · rename_i h
    obtain ⟨h1, h2⟩ := not_or.mp h
    refine .inr ⟨h1, by simpa using h2, ?_⟩
    simp only [uncountNewline_eq]
    split
    · exact .inl ⟨‹_ ∧ _›.1, ‹_ ∧ _›.2, rfl⟩
    · refine .inr ?_
      rename_i h3
      simp only [storeAtCnt, memWrite]
      split
      · rename_i heq
        split at heq
        · cases heq
          exact .inr ⟨h3, by assumption, rfl⟩
        · cases heq
      · rename_i heq
        split at heq
        · cases heq
        · cases heq
          exact .inl ⟨h3, by omega, rfl⟩

/-- L2 of RX_READ_UNTIL: in binary mode nothing is stored; in string mode the null is stored, or its store faults. -/
theorem readUntilExit_cases (s : State) :
    (s.loc.mode = .binary ∧
        readUntilExit s = .ok { s with rxie := s.loc.p, res := BitVec.ofNat 16 s.loc.cnt }) ∨
      (s.loc.mode = .string ∧ bufferByte s.loc.addr s.loc.cnt ≤ topAddress ∧
        readUntilExit s = .ok { s with
          data := s.data.write (bufferByte s.loc.addr s.loc.cnt) 0, rxie := s.loc.p,
          res := BitVec.ofNat 16 s.loc.cnt }) ∨
      (s.loc.mode = .string ∧ topAddress < bufferByte s.loc.addr s.loc.cnt ∧
        readUntilExit s =
          .error (raiseFault .accessFault (BitVec.ofNat 16 (bufferByte s.loc.addr s.loc.cnt)) s)) := by
  cases hm : s.loc.mode with
  | binary =>
    refine .inl ⟨rfl, ?_⟩
    simp only [readUntilExit, hm]
    rfl
  | string =>
    refine .inr ?_
    by_cases ha : bufferByte s.loc.addr s.loc.cnt ≤ topAddress
    · refine .inl ⟨rfl, ha, ?_⟩
      simp only [readUntilExit, hm, if_true, storeAtCnt, memWrite, if_neg (Nat.not_lt.mpr ha)]
      rfl
    · refine .inr ⟨rfl, by omega, ?_⟩
      simp only [readUntilExit, hm, if_true, storeAtCnt, memWrite, if_pos (Nat.not_le.mp ha)]

/-- L1 of TX_WRITE. -/
theorem txFetch_cases (s : State) :
    (s.loc.len ≠ 0 ∧ s.loc.cnt = s.loc.len.toNat ∧ txFetch s = { s with loc.label := .l5 }) ∨
      (¬ (s.loc.len ≠ 0 ∧ s.loc.cnt = s.loc.len.toNat) ∧
        ((bufferByte s.loc.addr s.loc.cnt ≤ topAddress ∧
            txFetch s = { s with loc := { s.loc with
              c := (s.mem s.loc.space).read (bufferByte s.loc.addr s.loc.cnt),
              label := if s.loc.len = 0 ∧ (s.mem s.loc.space).read (bufferByte s.loc.addr s.loc.cnt) = 0 then .l5
                       else .l2 } }) ∨
          (topAddress < bufferByte s.loc.addr s.loc.cnt ∧
            txFetch s = raiseFault .accessFault (BitVec.ofNat 16 (bufferByte s.loc.addr s.loc.cnt)) s))) := by
  unfold txFetch
  split
  · exact .inl ⟨‹_ ∧ _›.1, ‹_ ∧ _›.2, rfl⟩
  · rename_i h
    refine .inr ⟨h, ?_⟩
    rcases memRead_cases s.loc.space (bufferByte s.loc.addr s.loc.cnt) s with ⟨ha, e⟩ | ⟨ha, e⟩
    · refine .inl ⟨ha, ?_⟩
      simp only [sourceByte, e]
      split <;> rfl
    · refine .inr ⟨ha, ?_⟩
      simp only [sourceByte, e]

/-- L2 of TX_WRITE. -/
theorem txPush_cases (s : State) :
    (s.txf.isFull s.cfg.txK = true ∧ txPush s = { s with txie := true, loc.label := .l3 }) ∨
      (s.txf.isFull s.cfg.txK = false ∧ txPush s = { s with
        txf := (s.txf.write s.cfg.txK s.loc.c).2, loc := { s.loc with cnt := s.loc.cnt + 1, label := .l1 } }) := by
  unfold txPush
  cases hf : s.txf.isFull s.cfg.txK with
  | true => exact .inl ⟨rfl, rfl⟩
  | false => exact .inr ⟨rfl, rfl⟩

/-- A fetch: the end of the stream, a truncated command, an illegal one, one refused before INIT, or a command
taken. -/
theorem fetch_cases (s : State) :
    (s.cfg.cmdStream[s.cpc]? = none ∧ fetch s = s) ∨
      ∃ w0, s.cfg.cmdStream[s.cpc]? = some w0 ∧
        ((s.cfg.cmdStream.length < s.cpc + cmdLength w0 ∧
            fetch s = raiseFault .illegalCommand 0 { s with loc.cur0 := w0 }) ∨
          (s.cpc + cmdLength w0 ≤ s.cfg.cmdStream.length ∧
            ∃ w1, (w1 = if cmdLength w0 = 2 then s.cfg.cmdStream.getD (s.cpc + 1) 0 else s.loc.cur1) ∧
              (((∃ e, decode s.cfg.testW .portM w0 w1 = .error e) ∧
                  fetch s = raiseFault .illegalCommand 0 { s with loc := { s.loc with cur0 := w0, cur1 := w1 } }) ∨
                (∃ i, decode s.cfg.testW .portM w0 w1 = .ok i ∧
                  ((s.inited = false ∧ i.isInit = false ∧
                      fetch s = refuse .refusedBeforeInit { s with loc := { s.loc with cur0 := w0, cur1 := w1 } }) ∨
                    ((s.inited = true ∨ i.isInit = true) ∧
                      fetch s = { s with
                        cpc := s.cpc + cmdLength w0,
                        loc := { s.loc with cur0 := w0, cur1 := w1, busy := true, label := .l0 } })))))) := by
  unfold fetch
  split
  · exact .inl ⟨‹_›, rfl⟩
  · rename_i w0 h0
    refine .inr ⟨w0, h0, ?_⟩
    dsimp only
    split
    · exact .inl ⟨by omega, rfl⟩
    · refine .inr ⟨by omega, ?_⟩
      have take : ∀ (w1 : Word) (u : State), u = { s with loc := { s.loc with cur0 := w0, cur1 := w1 } } →
          (((∃ e, decode s.cfg.testW .portM w0 w1 = .error e) ∧
              takeCommand (cmdLength w0) u = raiseFault .illegalCommand 0 u) ∨
            (∃ i, decode s.cfg.testW .portM w0 w1 = .ok i ∧
              ((s.inited = false ∧ i.isInit = false ∧
                  takeCommand (cmdLength w0) u = refuse .refusedBeforeInit u) ∨
                ((s.inited = true ∨ i.isInit = true) ∧
                  takeCommand (cmdLength w0) u = { s with
                    cpc := s.cpc + cmdLength w0,
                    loc := { s.loc with cur0 := w0, cur1 := w1, busy := true, label := .l0 } })))) := by
        intro w1 u hu
        subst hu
        unfold takeCommand decodeCurrent
        dsimp only
        cases hd : decode s.cfg.testW .portM w0 w1 with
        | error e => exact .inl ⟨⟨e, rfl⟩, rfl⟩
        | ok i =>
          refine .inr ⟨i, rfl, ?_⟩
          dsimp only
          split
          · exact .inl ⟨‹_ ∧ _›.1, ‹_ ∧ _›.2, rfl⟩
          · refine .inr ⟨?_, rfl⟩
            rename_i hn
            cases hi : s.inited <;> cases hj : i.isInit <;> simp_all
      split
      · exact ⟨_, rfl, take _ _ rfl⟩
      · exact ⟨_, rfl, take _ _ rfl⟩

/-- The scheduler's choice is an enabled transition; there is none only where nothing is enabled. -/
theorem nextTurn_cases (s : State) :
    (∃ t, nextTurn s = some t ∧ s.enabled t = true) ∨ (nextTurn s = none ∧ ∀ t, s.enabled t = false) := by
  have free : (∃ t, s.enabledTurns[Config.freeTurn s.turnNo % s.enabledTurns.length]? = some t ∧ s.enabled t = true) ∨
      (s.enabledTurns[Config.freeTurn s.turnNo % s.enabledTurns.length]? = none ∧ ∀ t, s.enabled t = false) := by
    by_cases hl : s.enabledTurns = []
    · refine .inr ⟨by simp [hl], ?_⟩
      intro t
      have ht : t ∈ Turn.all := by 
        cases t with
        | i f => cases f <;> decide
        | e f => cases f <;> decide
        | m => decide
        | test => decide
      have := List.filter_eq_nil_iff.mp hl t ht
      simpa using this
    · have hp : Config.freeTurn s.turnNo % s.enabledTurns.length < s.enabledTurns.length :=
        Nat.mod_lt _ (List.length_pos_iff.mpr hl)
      refine .inl ⟨_, List.getElem?_eq_getElem hp, ?_⟩
      exact (List.mem_filter.mp (List.getElem_mem hp)).2
  unfold nextTurn
  split
  · exact free
  · split
    · exact .inl ⟨_, rfl, ‹_›⟩
    · exact free

/-- A step with a next state is one transition of an enabled agent, after the schedule's entry. -/
theorem step_cases {s s' : State} (h : step s = .next s') :
    ∃ t, s.enabled t = true ∧ fire t (tick s) = .next s' := by
  unfold step at h
  rcases nextTurn_cases s with ⟨t, e, ht⟩ | ⟨e, _⟩
  · rw [e] at h
    exact ⟨t, ht, h⟩
  · rw [e] at h
    simp only [noTurn] at h
    split_ifs at h

end Sys2Proof.Machine
end

