-- ==== Sys2Proof/Tests/Slice0.lean ====
section
/-! SUPPORT. Tests of the model and the witnesses of the obligations. Every expected result of a `test_` theorem is
taken from the spec: the vectors of 95_test_vectors.md (their ids stand in the docstrings) or a rule's own example.
A `witness_` theorem shows a concrete state and operands that meet the hypotheses of the obligation it names, for
each of its clauses. -/

namespace Sys2Proof.Tests

open Sys2Proof Sys2Proof.Machine

/-! ## Helpers -/

/-- A ring buffer with RD at `rd` and the given elements, oldest first. -/
def fifo {w : Nat} (k rd : Nat) (xs : List (BitVec w)) : RB w :=
  xs.foldl (fun f x => (f.write k x).2) { rd := rd, wr := rd, arr := List.replicate (2 ^ k) 0 }

/-- After reset and INIT: RX_K = 3, TX_K = 2, GDEPTH = 2, RXIE = 1, TXIE = 0. -/
def ready : State := { State.reset with inited := true, rxie := true }

/-- `ready` with bytes in RXF and the newline count given. -/
def received (xs : List Byte) (nl : Byte) : State := { ready with rxf := fifo 3 0 xs, nlcnt := nl }

/-- `ready` with bytes in TXF. -/
def sending (xs : List Byte) : State := { ready with txf := fifo 2 0 xs }

/-- Port T's instance with k and W, RD at `rd` and the given elements. -/
def onT (k W rd : Nat) (xs : List Half) : State :=
  { State.reset with cfg.testK := k, cfg.testW := W, test.rb := fifo k rd xs }

/-- Agent M about to take the step at a label of a command. -/
def busyAt (i : Instr) (l : Label) (s : State) : State :=
  { s with loc.cur0 := (encode i).headD 0, loc.cur1 := (encode i).getD 1 0, loc.busy := true, loc.label := l }

/-- The state with words on CMD_STREAM. -/
def withStream (ws : List Word) (s : State) : State := { s with cfg.cmdStream := ws }

/-- A view of an outcome's next state. -/
def see {α : Type} (f : State → α) (o : Host.Outcome State Fault Refusal) : Option α :=
  match o with
  | .next s => some (f s)
  | .fault _ => none
  | .refused _ => none

/-! ## Well-formedness: one ill-formed term per check -/

/-- R76: RB_WRITE's element has W bits. -/
theorem test_wf_rbWrite_too_wide : Instr.wf 8 (.rbWrite 0x100) = false ∧ Instr.wf 8 (.rbWrite 0xFF) = true ∧
    Instr.wf 16 (.rbWrite 0xFFFF) = true ∧ Instr.wf 1 (.rbWrite 2) = false := by decide

/-- R6: each bound of the block's configuration. -/
theorem test_config_bounds_refused :
    Config.blockOk { Config.chosen with rxK := 0 } = false ∧ Config.blockOk { Config.chosen with rxK := 9 } = false ∧
    Config.blockOk { Config.chosen with txK := 0 } = false ∧ Config.blockOk { Config.chosen with txK := 9 } = false ∧
    Config.blockOk { Config.chosen with gdepth := 0 } = false ∧ Config.blockOk Config.chosen = true := by decide

/-- R6: a stream of 2^16 words is the longest. -/
theorem test_config_stream_too_long :
    Config.blockOk { Config.chosen with cmdStream := List.replicate 65537 0 } = false ∧
    Config.blockOk { Config.chosen with cmdStream := List.replicate 65536 0 } = true := by
  have h : ∀ n, Config.blockOk { Config.chosen with cmdStream := List.replicate n 0 } = decide (n ≤ 65536) := by
    intro n
    simp [Config.blockOk, Config.chosen]
  rw [h, h]
  decide

/-- R6 and R100: each bound of the standalone instance's configuration. -/
theorem test_testConfig_bounds_refused :
    Config.testOk { Config.chosen with testK := 0 } = false ∧ Config.testOk { Config.chosen with testK := 9 } = false ∧
    Config.testOk { Config.chosen with testW := 0 } = false ∧ Config.testOk { Config.chosen with testW := 17 } = false ∧
    Config.testOk Config.chosen = true := by decide

/-! ## Decoding: every constructor by a word written out from R71 and R79 -/

/-- OPC 0x10 to 0x14, port T. -/
theorem test_decode_ringBuffer :
    decodeWords 8 .portT [0b00010000000000000000000001100011] = some (.rbWrite 0x63) ∧
    decodeWords 16 .portT [0b00010000000000001011111011101111] = some (.rbWrite 0xBEEF) ∧
    decodeWords 8 .portT [0b00010001000000000000000000000000] = some .rbRead ∧
    decodeWords 8 .portT [0b00010010000000000000000000000000] = some .rbCount ∧
    decodeWords 8 .portT [0b00010011000000000000000000000000] = some .rbIsfull ∧
    decodeWords 8 .portT [0b00010100000000000000000000000000] = some .rbIsempty := by decide

/-- OPC 0x20 and 0x21, with F at bit 22. -/
theorem test_decode_guards :
    decodeWords 8 .portM [0b00100000000000000000000000000000] = some (.csDisable .rx) ∧
    decodeWords 8 .portM [0b00100000010000000000000000000000] = some (.csDisable .tx) ∧
    decodeWords 8 .portM [0b00100001000000000000000000000000] = some (.csRestore .rx) ∧
    decodeWords 8 .portM [0b00100001010000000000000000000000] = some (.csRestore .tx) := by decide

/-- OPC 0x30 to 0x33; word 1 is RSV1, TERM, ADDR. -/
theorem test_decode_receive :
    decodeWords 8 .portM [0b00110000000000000000000000000000] = some .rxAvail ∧
    decodeWords 8 .portM [0b00110001000000000000000000000000] = some .rxLineAvail ∧
    decodeWords 8 .portM [0b00110010000000000000000000010000, 0b00000000000010100000000100000000] =
      some (.rxReadUntil 0x0100 16 0x0A) ∧
    decodeWords 8 .portM [0b00110011000000000000000000000011, 0b00000000000000000000000110000000] =
      some (.rxReadExact 0x0180 3) := by decide

/-- OPC 0x40 with S at bit 23, OPC 0x60. -/
theorem test_decode_transmit_and_init :
    decodeWords 8 .portM [0b01000000000000000000000000000101, 0b00000000000000000000001100000000] =
      some (.txWrite .data 0x0300 5) ∧
    decodeWords 8 .portM [0b01000000100000000000000000000101, 0b00000000000000000000000001000000] =
      some (.txWrite .prog 0x0040 5) ∧
    decodeWords 8 .portM [0b01100000000000001111111111111111] = some (.init 0xFFFF) := by decide

/-- OPC 0x50 and 0x51, port I. -/
theorem test_decode_handlers :
    decodeWords 8 .portI [0b01010000000000000000000000000000] = some .rxIsr ∧
    decodeWords 8 .portI [0b01010001000000000000000000000000] = some .txIsr := by decide

/-- E1 to E9, E11, E13, E14, E16, E17, E20, E21: illegal on port M. -/
theorem test_decode_illegal_words :
    ([(0x00000000, 0), (0x10000005, 0), (0x50000000, 0), (0x51000000, 0), (0x30000001, 0), (0x30800000, 0),
      (0x31400000, 0), (0x20010000, 0), (0x20000001, 0), (0x32000010, 0x010A0100), (0x33000003, 0x000A0180),
      (0x40C00005, 0x00000300), (0x40000005, 0x0A000300), (0x60010067, 0), (0x41000000, 0),
      (0x12000000, 0)] : List (Word × Word)).all (fun w => (decode 8 .portM w.1 w.2).toOption.isNone) = true := by
  decide

/-- RB22 to RB26: RB_WRITE's fixed bits follow W, and only port T's opcodes are legal on it. -/
theorem test_decode_illegal_on_portT :
    ([(8, 0x10000163), (8, 0x20000000), (8, 0x11000001), (4, 0x10000010)] : List (Nat × Word)).all
      (fun w => (decode w.1 .portT w.2 0).toOption.isNone) = true ∧
    decodeWords 4 .portT [0x1000000F] = some (.rbWrite 0xF) := by decide

/-- R81 and R82: the assembly forms and the pseudo-instructions. -/
theorem test_assemble :
    assemble "RX_READ_UNTIL 0x0200, 16, ':'" = some (.rxReadUntil 0x0200 16 0x3A) ∧
    assemble "RX_READ 0x0100, 4" = some (.rxReadUntil 0x0100 4 0) ∧
    assemble "RX_READ_LINE 0x0100, 16" = some (.rxReadUntil 0x0100 16 0x0A) ∧
    assemble "TX_WRITE_STRING prog:0x0040" = some (.txWrite .prog 0x0040 0) ∧
    assemble "CS_RESTORE rx" = some (.csRestore .rx) ∧ assemble "RX_ISR" = some .rxIsr ∧
    assemble "NOP" = none := by decide

/-- The register numbers and widths of R25, and IER and STATUS after reset (R39). -/
theorem test_register_map :
    Reg.number .ier = 0 ∧ Reg.number .gstkTx = 0xC ∧ Reg.width 2 .fword = 32 ∧ Reg.width 2 .gstkRx = 2 ∧
    State.reset.readReg .ier = 0 ∧ State.reset.readReg .status = 2 ∧
    { ready with gstkRx := [false, true] }.readReg .gstkRx = 1 := by decide

/-! ## Ring-buffer primitives (2.1) -/

/-- RB7: the write index wraps by masking. -/
theorem test_rbWrite_wraps :
    see (fun s => (s.test.res, s.test.rb.wr, s.test.rb.arr.getD 7 0)) (exec (.rbWrite 0xAB) (onT 3 8 3 [1, 2, 3, 4])) =
      some (1, 0, 0xAB) := by decide

/-- RB9: a full buffer is not overwritten. -/
theorem test_rbWrite_full :
    see (fun s => (s.test.res, s.test.rb == fifo 3 3 [1, 2, 3, 4, 5, 6, 7]))
      (exec (.rbWrite 0x11) (onT 3 8 3 [1, 2, 3, 4, 5, 6, 7])) = some (0, true) := by decide

/-- RB8: the read index wraps by masking. -/
theorem test_rbRead_wraps :
    see (fun s => (s.test.res, s.test.rb.rd)) (exec .rbRead (onT 3 8 7 [0xAB, 1])) = some (0xAB, 0) := by decide

/-- RB10: a silent underflow. -/
theorem test_rbRead_empty :
    see (fun s => (s.test.res, s.test.rb.rd)) (exec .rbRead (onT 3 8 5 [])) = some (0, 5) := by decide

/-- RB4: RD = 6, WR = 2. -/
theorem test_rbCount_wraps :
    see (fun s => s.test.res) (exec .rbCount (onT 3 8 6 [1, 2, 3, 4])) = some 4 := by decide

/-- RB5: RD = 3, WR = 2 is full; RB14: one element fills N = 2. -/
theorem test_rbIsfull :
    see (fun s => s.test.res) (exec .rbIsfull (onT 3 8 3 [1, 2, 3, 4, 5, 6, 7])) = some 1 ∧
    see (fun s => s.test.res) (exec .rbIsfull (onT 1 8 0 [5])) = some 1 := by decide

/-- RB1, and S1 row 18. -/
theorem test_rbIsempty :
    see (fun s => s.test.res) (exec .rbIsempty (onT 3 8 0 [])) = some 1 ∧
    see (fun s => s.test.res) (exec .rbIsempty (onT 3 8 7 [])) = some 1 := by decide

/-- RB22: an illegal word sets FCAUSE_T and leaves the rest of the instance alone. -/
theorem test_portT_illegal :
    see (fun s => (s.test.fcause, s.test.rb == fifo 3 0 [7], s.enabled .test))
      (fire .test { onT 3 8 0 [7] with test.input := [0x10000163, 0x11000000] }) = some (0x01, true, false) := by decide

/-! ## Guards (2.4) -/

/-- G1. -/
theorem test_csDisable_rx :
    see (fun s => (s.rxie, s.gstkRx, s.res, s.txie)) (exec (.csDisable .rx) { ready with txie := true }) =
      some (false, [true], 1, true) := by decide

/-- G5: save stack overflow. -/
theorem test_csDisable_overflow :
    see (fun s => (s.fcause, s.fword, s.faddr, s.gstkRx))
      (exec (.csDisable .rx) (busyAt (.csDisable .rx) .l0 { ready with rxie := false, gstkRx := [false, true] })) =
      some (0x03, 0x20000000, 0, [false, true]) := by decide

/-- G4. -/
theorem test_csRestore_rx :
    see (fun s => (s.rxie, s.gsp .rx, s.res)) (exec (.csRestore .rx) { ready with rxie := false, gstkRx := [true], res := 9 }) =
      some (true, 0, 9) := by decide

/-- G6: save stack underflow. -/
theorem test_csRestore_underflow :
    see (fun s => (s.fcause, s.fword)) (exec (.csRestore .tx) (busyAt (.csRestore .tx) .l0 ready)) =
      some (0x03, 0x21400000) := by decide

/-! ## Receive (2.5 and 2.6) -/

/-- RX2, and RX5 on a full RXF. -/
theorem test_rxIsr :
    see (fun s => (s.rxf.contents 3, s.nlcnt, s.rxc)) (exec .rxIsr { ready with rxdr := 0x0A, rxc := true }) =
      some ([0x0A], 1, false) ∧
    see (fun s => (s.rxf.contents 3, s.nlcnt, s.rxDropped))
      (exec .rxIsr { received [0x61, 0x0A, 0x63, 1, 2, 3, 4] 1 with rxdr := 0x0A, rxc := true }) =
      some ([0x61, 0x0A, 0x63, 1, 2, 3, 4], 1, 1) := by decide

/-- RA1 at L1, and RA2 at L2: the captured 0 is restored. -/
theorem test_rxAvail :
    see (fun s => s.loc.cnt) (exec .rxAvail (busyAt .rxAvail .l1 (received [0x61, 0x62, 0x0A, 0x63, 0x64, 0x0A] 2))) =
      some 6 ∧
    see (fun s => (s.rxie, s.res, s.loc.busy)) (exec .rxAvail (busyAt .rxAvail .l2 { ready with rxie := false })) =
      some (false, 0, false) := by decide

/-- RA3 and RA4. -/
theorem test_rxLineAvail :
    see (fun s => s.res) (exec .rxLineAvail (received [0x61] 0)) = some 0 ∧
    see (fun s => s.res) (exec .rxLineAvail (received [0x0A] 1)) = some 1 := by decide

/-- RU8: the terminator is consumed, not copied; RU2: a copied newline is uncounted in binary mode. -/
theorem test_rxReadUntil_pass :
    see (fun s => (s.rxf.contents 3, s.loc.label, s.data))
      (exec (.rxReadUntil 0x0200 16 0x3A)
        { received [0x3A, 0x63] 0 with loc.label := .l1, loc.mode := .string, loc.term := 0x3A, loc.lim := 15 }) =
      some ([0x63], .l2, []) ∧
    see (fun s => (s.nlcnt, s.data, s.loc.cnt))
      (exec (.rxReadUntil 0x0100 3 0)
        { received [0x0A, 0x62] 1 with loc.label := .l1, loc.addr := 0x0100, loc.cnt := 2, loc.lim := 3 }) =
      some (0, [(0x0102, 0x0A)], 3) := by decide

/-- RU10: the byte past the top of DATA is consumed and lost; RU5: string mode with n = 0. -/
theorem test_rxReadUntil_faults :
    see (fun s => (s.fcause, s.fword, s.faddr, s.rxf.contents 3, s.rxie))
      (exec (.rxReadUntil 0xFFFE 16 0x0A) (busyAt (.rxReadUntil 0xFFFE 16 0x0A) .l1
        { received [0x63, 0x0A] 1 with
          rxie := false, loc.addr := 0xFFFE, loc.cnt := 2, loc.lim := 15, loc.mode := .string, loc.term := 0x0A })) =
      some (0x02, 0x32000010, 0x0000, [0x0A], false) ∧
    see (fun s => (s.fcause, s.faddr, s.rxie))
      (exec (.rxReadUntil 0x0100 0 0x0A) (busyAt (.rxReadUntil 0x0100 0 0x0A) .l0 (received [0x61, 0x62] 0))) =
      some (0x03, 0, true) := by decide

/-- RE1 at its last step, and the poll of RE3: one byte of three loops back. -/
theorem test_rxReadExact :
    see (fun s => (s.res, s.loc.busy))
      (exec (.rxReadExact 0x0180 3) { ready with loc.label := .l3r2, loc.cnt := 3, loc.len := 3 }) = some (1, false) ∧
    see (fun s => (s.loc.label, s.rxie))
      (exec (.rxReadExact 0x0180 3)
        { ready with rxie := false, loc.label := .l2, loc.cnt := 1, loc.len := 3, loc.p2 := true }) =
      some (.l0, true) := by decide

/-! ## Transmit (2.7 and 2.8) -/

/-- TI1 and TI3. -/
theorem test_txIsr :
    see (fun s => (s.txf.contents 2, s.txdr, s.txrdy, s.txie)) (exec .txIsr { sending [0x41] with txie := true }) =
      some ([], 0x41, false, true) ∧
    see (fun s => s.txie) (exec .txIsr { ready with txie := true }) = some false := by decide

/-- TW8: a full TXF re-enables the interrupt for the delay; TW10: the last step sets TXIE whatever was captured. -/
theorem test_txWrite :
    see (fun s => (s.txie, s.loc.label, s.txf.contents 2))
      (exec (.txWrite .data 0x0300 1) { sending [0x11, 0x22, 0x33] with loc.label := .l2, loc.c := 0x44 }) =
      some (true, .l3, [0x11, 0x22, 0x33]) ∧
    see (fun s => (s.txie, s.res, s.loc.busy))
      (exec (.txWrite .data 0x0300 1) { sending [0x44] with loc.label := .l5, loc.cnt := 1 }) =
      some (true, 1, false) := by decide

/-- TW7: a source byte past the top; TW5: PROG is the source, and its null ends a string write. -/
theorem test_txWrite_fetch :
    see (fun s => (s.fcause, s.faddr, s.txie))
      (exec (.txWrite .data 0xFFFF 2) { sending [0x41] with
        loc.label := .l1, loc.addr := 0xFFFF, loc.cnt := 1, loc.len := 2 }) = some (0x02, 0x0000, false) ∧
    see (fun s => (s.loc.c, s.loc.label))
      (exec (.txWrite .prog 0x0040 0) { ready with
        prog := [(0x0040, 0x4F)], loc.label := .l1, loc.space := .prog, loc.addr := 0x0040, loc.len := 0 }) =
      some (0x4F, .l2) := by decide

/-! ## Initialization, fetch and the line (2.2, 2.9, 2.10) -/

/-- IN1 and IN2. -/
theorem test_init :
    see (fun s => (s.baudcfg, s.rxie, s.txie, s.inited)) (exec (.init 0x0067) State.reset) =
      some (0x0067, true, false, true) ∧
    see (fun s => (s.fcause, s.refused, s.fword)) (exec (.init 0x0067) (busyAt (.init 0x0067) .l0 ready)) =
      some (0x82, true, 0x60000067) := by decide

/-- E19, E22 and E23: a truncated command, and an illegal word and a command before INIT. -/
theorem test_fetch_rejects :
    see (fun s => (s.fcause, s.fword, s.faddr, s.cpc)) (fire .m (withStream [0x40000005] ready)) =
      some (0x01, 0x40000005, 0, 0) ∧
    see (fun s => (s.fcause, s.refused)) (fire .m (withStream [0x00000000] State.reset)) = some (0x01, false) ∧
    see (fun s => (s.fcause, s.refused, s.fword, s.cpc)) (fire .m (withStream [0x31000000] State.reset)) =
      some (0x81, true, 0x31000000, 0) := by decide

/-- E12: a two-word command is taken whole. -/
theorem test_fetch_takes :
    see (fun s => (s.cpc, s.loc.busy, (running s))) (fire .m (withStream [0x32000010, 0x000A0100] ready)) =
      some (2, true, some (.rxReadUntil 0x0100 16 0x0A)) := by decide

/-- RX6: a byte that finds RXC = 1 is lost at the peripheral; TI2: E_TX. -/
theorem test_line :
    see (fun s => (s.rxdr, s.lineLost, s.linPos))
      (fire (.e .rx) { ready with cfg.lineIn := [0x62], rxdr := 0x61, rxc := true }) = some (0x61, 1, 1) ∧
    see (fun s => (s.lineOut, s.txrdy)) (fire (.e .tx) { ready with txdr := 0x41, txrdy := false, lineOut := [0x40] }) =
      some ([0x40, 0x41], true) := by decide

/-- The table of 2.10. -/
theorem test_pending :
    (State.pending { ready with rxc := true, inited := false } .rx, State.pending { ready with rxc := true } .rx,
      State.pending { ready with rxie := false, rxc := true } .rx, State.pending ready .tx,
      State.pending { ready with txie := true } .tx, State.pending { ready with txie := true, txrdy := false } .tx) =
      (false, true, false, false, true, false) := by decide

/-- The decoder and the placed word, as the host asks for them: one word per port. -/
theorem test_withFetchWord :
    decodeTableWord 64 0x0000000010 = none ∧ decodeTableWord 64 0x000A010032000010 = some (.rxReadUntil 0x0100 16 0x0A) ∧
    see (fun s => s.test.res) (step (State.reset.withFetchWord 32 0x10000005)) = some 1 ∧
    see (fun s => s.rxc) (step (State.reset.withFetchWord 32 0x50000000)) = some false ∧
    see (fun s => s.inited) (step (State.reset.withFetchWord 32 0x60000067)) = some true ∧
    see (fun s => s.loc.label) (step (State.reset.withFetchWord 64 0x0000030040000002)) = some .l1 := by decide

/-! ## Witnesses: states with the invariant -/

/-- Everything of the invariant that does not look at the command in progress. -/
abbrev Sound (s : State) : Prop :=
  RB.Wf s.cfg.rxK s.rxf ∧ RB.Wf s.cfg.txK s.txf ∧ RB.Wf s.cfg.testK s.test.rb ∧ ElementsFit s.cfg.testW s.test.rb ∧
    NewlinesCounted s ∧ Memory.wf s.data = true ∧ Memory.wf s.prog = true ∧ s.gstkRx.length ≤ s.cfg.gdepth ∧
    s.gstkTx.length ≤ s.cfg.gdepth ∧ s.cpc ≤ s.cfg.cmdStream.length ∧ s.inited = true ∧
    (s.fcause = 0 → s.fword = 0 ∧ s.faddr = 0 ∧ s.refused = false)

/-- The command in progress is what CUR0 and CUR1 decode to. -/
theorem of_running {s : State} {j : Instr} (h : running s = some j) : s.loc.busy = true ∧ decodeCurrent s = .ok j := by
  unfold running at h
  split at h
  · refine ⟨‹_›, ?_⟩
    cases hd : decodeCurrent s with
    | error e => rw [hd] at h; cases h
    | ok i => rw [hd] at h; cases h; rfl
  · cases h

/-- A sound state with a command in progress has the invariant. -/
theorem invariant_busy {s : State} {j : Instr} (h : Sound s) (hr : running s = some j)
    (hl : hasLabel j s.loc.label = true) (hrx : guarded .rx j s.loc.label = true → s.ie .rx = false)
    (htx : guarded .tx j s.loc.label = true → s.ie .tx = false) (he : ExactReadCovered s) : Invariant s := by
  obtain ⟨h1, h2, h3, h4, h5, h6, h7, h8, h9, h10, h11, h12⟩ := h
  obtain ⟨-, hd⟩ := of_running hr
  refine ⟨h1, h2, h3, h4, h5, h6, h7, h8, h9, h10, fun _ => ⟨j, hd, hl, .inl h11⟩, ?_, he, ?_, h12⟩
  · intro i f hi
    rw [hr] at hi
    cases hi
    cases f
    · exact hrx
    · exact htx
  · intro h0
    rw [h11] at h0
    cases h0

/-- A sound state at a command boundary has the invariant. -/
theorem invariant_idle {s : State} (h : Sound s) (hb : s.loc.busy = false) : Invariant s := by
  obtain ⟨h1, h2, h3, h4, h5, h6, h7, h8, h9, h10, h11, h12⟩ := h
  have hr : running s = none := by simp [running, hb]
  refine ⟨h1, h2, h3, h4, h5, h6, h7, h8, h9, h10, ?_, ?_, ?_, ?_, h12⟩
  · intro h0
    rw [hb] at h0
    cases h0
  · intro i f hi
    rw [hr] at hi
    cases hi
  · intro a n _ hi
    rw [hr] at hi
    cases hi
  · intro h0
    rw [h11] at h0
    cases h0

/-- A command that is not RX_READ_EXACT has nothing to cover. -/
theorem covered_of {s : State} {j : Instr} (hr : running s = some j) (hj : ∀ a n, j ≠ .rxReadExact a n) :
    ExactReadCovered s := by
  intro a n _ hi
  rw [hr] at hi
  cases hi
  exact absurd rfl (hj a n)

theorem invariant_ready : Invariant ready := invariant_idle (by decide) rfl

/-! ## Witnesses: encoding -/

theorem witness_EncodeThenDecode :
    (1 ≤ 1 ∧ 1 ≤ 16 ∧ Instr.wf 1 (.rbWrite 1) = true) ∧ (1 ≤ 16 ∧ 16 ≤ 16 ∧ Instr.wf 16 (.rbWrite 0xFFFF) = true) ∧
      Instr.wf 8 (.rxReadUntil 0xFFFF 0xFFFF 0xFF) = true := by decide

theorem witness_DecodeThenEncode :
    decode 8 .portM 0x40800005 0x00000040 = .ok (.txWrite .prog 0x0040 5) ∧
      decode 16 .portT 0x1000FFFF 0 = .ok (.rbWrite 0xFFFF) := ⟨rfl, rfl⟩

/-- One word per clause, each at the lowest value that breaks it. -/
theorem witness_ReservedFieldsAreIllegal :
    (0x60010067#32).extractLsb' 16 6 ≠ 0 ∧ (sField 0x30800000 = true ∧ opcField 0x30800000 ≠ 0x40) ∧
      (fField 0x31400000 = true ∧ opcField 0x31400000 ≠ 0x20 ∧ opcField 0x31400000 ≠ 0x21) ∧
      (opcField 0x30000001 ∈ [0x11#8, 0x12, 0x13, 0x14, 0x20, 0x21, 0x30, 0x31, 0x50, 0x51] ∧
        immField 0x30000001 ≠ 0) ∧
      (opcField 0x10000100 = 0x10 ∧ 2 ^ 8 ≤ (immField 0x10000100).toNat) ∧
      (cmdLength 0x32000010 = 2 ∧ (0x010A0100#32).extractLsb' 24 8 ≠ 0) ∧
      (cmdLength 0x33000003 = 2 ∧ opcField 0x33000003 ≠ 0x32 ∧ termField 0x000A0180 ≠ 0) := by decide

/-! ## Witnesses: ring buffers -/

theorem witness_RbWriteAppendsOneElement :
    ((0xFF#16).toNat < 2 ^ 8 ∧ RB.Wf 3 (onT 3 8 3 [1, 2, 3, 4, 5, 6, 7]).test.rb ∧
      (((onT 3 8 3 [1, 2, 3, 4, 5, 6, 7]).test.rb.wr + 1) &&& (2 ^ 3 - 1)) = 3) ∧
    (RB.Wf 3 (onT 3 8 3 [1, 2, 3, 4]).test.rb ∧ (((onT 3 8 3 [1, 2, 3, 4]).test.rb.wr + 1) &&& (2 ^ 3 - 1)) ≠ 3) := by
  decide

theorem witness_RbReadTakesTheOldest :
    (RB.Wf 3 (onT 3 8 5 []).test.rb ∧ (onT 3 8 5 []).test.rb.contents 3 = []) ∧
    (RB.Wf 3 (onT 3 8 7 [0xAB, 1]).test.rb ∧ (onT 3 8 7 [0xAB, 1]).test.rb.contents 3 = 0xAB :: [1]) := by decide

theorem witness_RbQueriesAnswerTheFlags : RB.Wf 3 (onT 3 8 6 [1, 2, 3, 4]).test.rb ∧ RB.Wf 8 (RB.reset 16 8) := by
  refine ⟨by decide, RB.reset_wf 16 8⟩

theorem witness_FifoOrderAndCount : RB.Wf 1 (fifo (w := 8) 1 1 []) ∧ (fifo (w := 8) 1 1 []).isEmpty = true := by decide

theorem witness_TestPortTakesOneWord :
    (decode 8 .portT 0x10000005 0 = .ok (.rbWrite 5)) ∧ (∀ i, decode 8 .portT 0x10000163 0 ≠ .ok i) := by
  refine ⟨rfl, ?_⟩
  intro i h
  cases h

theorem witness_TestPortSharesNothing :
    (∃ s', fire .test { State.reset with test.input := [0x10000005] } = .next s') ∧
      (∃ s', fire .m (withStream [0x60000067] State.reset) = .next s') := ⟨⟨_, rfl⟩, ⟨_, rfl⟩⟩

/-! ## Witnesses: guards -/

theorem witness_CsDisableCapturesAndClears :
    { ready with gstkRx := [true] }.gstkRx.length ≠ ready.cfg.gdepth ∧ ready.gstkTx.length ≠ ready.cfg.gdepth ∧
      { ready with gstkRx := [false, true] }.gsp .rx = ready.cfg.gdepth ∧ ready.fcause = 0 := by decide

theorem witness_CsRestorePopsAndRestores :
    { ready with gstkRx := [false, true] }.gstkRx = false :: [true] ∧ { ready with gstkTx := [true] }.gstkTx = true :: [] ∧
      ready.gsp .tx = 0 ∧ ready.fcause = 0 := by decide

/-- GDEPTH = 2 is just enough for one guard inside another. -/
theorem witness_NestedGuardsRestore :
    NestedGuards .rx [.csDisable .rx, .csRestore .rx] ∧
      ready.gsp .rx + guardRoom [.csDisable .rx, .csRestore .rx] + 1 ≤ ready.cfg.gdepth :=
  ⟨NestedGuards.guard .none .none, by decide⟩

/-! ## Witnesses: receive -/

/-- A full RXF, and one with room for exactly one byte. -/
theorem witness_RxIsrPushesOrDrops :
    (RB.Wf 3 (received [1, 2, 3, 4, 5, 6, 7] 0).rxf ∧ ((received [1, 2, 3, 4, 5, 6, 7] 0).rxf.contents 3).length + 1 = 2 ^ 3) ∧
    (RB.Wf 3 (received [1, 2, 3, 4, 5, 6] 0).rxf ∧ ((received [1, 2, 3, 4, 5, 6] 0).rxf.contents 3).length + 1 ≠ 2 ^ 3) := by
  decide

theorem witness_RxAvailSteps :
    (busyAt .rxAvail .l0 ready).loc.label = .l0 ∧ (busyAt .rxAvail .l1 ready).loc.label = .l1 ∧
      (busyAt .rxAvail .l2 ready).loc.label = .l2 := by decide

theorem witness_RxAvailReturnsCount :
    let s := busyAt .rxAvail .l0 (received [0x61, 0x62] 0)
    s.cfg.blockOk = true ∧ s.fcause = 0 ∧ running s = some .rxAvail ∧ s.loc.label = .l0 := by decide

theorem witness_ReadUntilEnters :
    ready.loc.label = .l0 ∧ (0x0A#8 ≠ 0 ∧ 1#16 ≠ 0) ∧ (0x0A#8 ≠ 0 ∧ 0#16 = 0 ∧ ready.fcause = 0) := by decide

/-- At the limit, on an empty RXF, at the terminator, at the last byte of DATA and one past it. -/
theorem witness_ReadUntilDrainsOneByte :
    let s : State := { received [0x3A, 0x63] 0 with loc.label := .l1, loc.lim := 2, loc.term := 0x3A, loc.mode := .string }
    (s.loc.label = .l1 ∧ RB.Wf 3 s.rxf ∧ Memory.wf s.data = true) ∧
      { s with loc.cnt := 2 }.loc.cnt = s.loc.lim.toNat ∧ ready.rxf.contents 3 = [] ∧
      (s.loc.cnt ≠ s.loc.lim.toNat ∧ s.rxf.contents 3 = 0x3A :: [0x63] ∧ s.loc.mode = .string ∧ 0x3A = s.loc.term) ∧
      (¬ ({ s with loc.mode := .binary }.loc.mode = .string ∧ 0x3A = s.loc.term) ∧
        { s with loc.addr := 0xFFFF }.loc.addr.toNat + s.loc.cnt ≤ 0xFFFF) ∧
      (0xFFFF < { s with loc.addr := 0xFFFF }.loc.addr.toNat + { s with loc.cnt := 1 }.loc.cnt ∧ s.fcause = 0) := by
  decide

theorem witness_ReadUntilExits :
    let s : State := { ready with loc.label := .l2, loc.addr := 0xFFFF }
    (s.loc.label = .l2 ∧ Memory.wf s.data = true ∧ s.loc.mode = .binary) ∧
      ({ s with loc.mode := .string }.loc.mode = .string ∧ s.loc.addr.toNat + s.loc.cnt ≤ 0xFFFF) ∧
      (0xFFFF < s.loc.addr.toNat + { s with loc.cnt := 1 }.loc.cnt ∧ s.fcause = 0) := by decide

/-- A buffer that ends at the top of DATA, with fewer bytes asked for than buffered. -/
theorem witness_RxReadMovesMin :
    let s := busyAt (.rxReadUntil 0xFFFD 3 0) .l0 (received [0x61, 0x00, 0x0A, 0x62] 1)
    s.cfg.blockOk = true ∧ s.fcause = 0 ∧ running s = some (.rxReadUntil 0xFFFD 3 0) ∧ s.loc.label = .l0 ∧
      RB.Wf 3 s.rxf ∧ Memory.wf s.data = true ∧ 3 = min (3#16).toNat (s.rxf.contents 3).length ∧
      (0xFFFD#16).toNat + 3 ≤ 0x10000 := by decide

/-- The smallest n for the line, and its null at the top of DATA. -/
theorem witness_RxReadLineReturnsLine :
    let s := busyAt (.rxReadUntil 0xFFFD 4 0x0A) .l0 (received [0x61, 0x62, 0x0A, 0x63] 1)
    s.cfg.blockOk = true ∧ s.fcause = 0 ∧ running s = some (.rxReadUntil 0xFFFD 4 0x0A) ∧ s.loc.label = .l0 ∧
      RB.Wf 3 s.rxf ∧ Memory.wf s.data = true ∧ s.rxf.contents 3 = [0x61, 0x62] ++ 0x0A :: [0x63] ∧
      0x0A#8 ∉ [0x61#8, 0x62] ∧ [0x61#8, 0x62].length + 2 ≤ (4#16).toNat ∧
      (0xFFFD#16).toNat + [0x61#8, 0x62].length ≤ 0xFFFF := by decide

/-- The newline is exactly the n-th byte (n = 2). -/
theorem witness_ReadLineConsumesNewlineAmongFirstN :
    let s := busyAt (.rxReadUntil 0x0100 2 0x0A) .l0 (received [0x61, 0x0A] 1)
    s.cfg.blockOk = true ∧ s.fcause = 0 ∧ running s = some (.rxReadUntil 0x0100 2 0x0A) ∧ s.loc.label = .l0 ∧
      Invariant s ∧ s.rxf.contents 3 = [0x61] ++ 0x0A :: [] ∧ 0x0A#8 ∉ [0x61#8] ∧ 2 ≤ (2#16).toNat ∧
      [0x61#8].length < (2#16).toNat ∧ (0x0100#16).toNat + (2#16).toNat ≤ 0x10000 := by
  refine ⟨by decide, by decide, by decide, by decide, ?_, by decide⟩
  exact invariant_busy (j := .rxReadUntil 0x0100 2 0x0A) (by decide) (by decide) (by decide)
      (by decide) (by decide)
      (covered_of (j := .rxReadUntil 0x0100 2 0x0A) (by decide) (by simp))

/-- The poll and L3: an empty RXF, a byte for the last address of DATA and one past it, and the last step. -/
theorem witness_ExactReadSteps :
    let s : State := { received [0x0A] 1 with loc.label := .l3r1, loc.lim := 2, loc.addr := 0xFFFF }
    ready.loc.label = .l0 ∧ { ready with loc.label := .l1 }.loc.label = .l1 ∧ { ready with loc.label := .l2 }.loc.label = .l2 ∧
    { ready with loc.label := .l3r0 }.loc.label = .l3r0 ∧
    ({ ready with loc.label := .l3r1 }.loc.label = .l3r1 ∧ ready.rxf.contents 3 = []) ∧
    (s.loc.label = .l3r1 ∧ RB.Wf 3 s.rxf ∧ Memory.wf s.data = true ∧ s.loc.mode = .binary ∧ s.loc.cnt ≠ s.loc.lim.toNat ∧
        s.rxf.contents 3 = 0x0A :: [] ∧ s.loc.addr.toNat + s.loc.cnt ≤ 0xFFFF ∧
        1 ≠ s.loc.lim.toNat ∧ 0xFFFF < s.loc.addr.toNat + 1 ∧ s.fcause = 0) ∧
    { ready with loc.label := .l3r2 }.loc.label = .l3r2 ∧ ready.loc.mode = .binary := by
  decide

/-- R150's L3 at the top of DATA: the byte past 0xFFFF is consumed, and the step faults. -/
theorem test_exactRead_faults_past_top :
    see (fun t => (t.fcause, t.faddr, t.rxf.contents 3, t.nlcnt, t.rxie))
      (exec (.rxReadExact 0xFFFF 2) { received [0x0A] 1 with
        rxie := false, loc.label := .l3r1, loc.lim := 2, loc.addr := 0xFFFF, loc.cnt := 1 }) =
      some (0x02, 0x0000, [], 0, false) := by decide

/-- As many bytes as asked for, and a buffer that ends at the top of DATA. -/
theorem witness_ExactReadCompletes :
    let s := busyAt (.rxReadExact 0xFFFD 3) .l0 (received [1, 2, 3] 0)
    s.cfg.blockOk = true ∧ s.fcause = 0 ∧ running s = some (.rxReadExact 0xFFFD 3) ∧ s.loc.label = .l0 ∧
      RB.Wf 3 s.rxf ∧ Memory.wf s.data = true ∧ (3#16).toNat ≤ (s.rxf.contents 3).length ∧
      (0xFFFD#16).toNat + (3#16).toNat ≤ 0x10000 := by decide

theorem witness_ExactReadReturnsOne :
    let s := { busyAt (.rxReadExact 0x0180 3) .l3r2 ready with
      rxie := false, loc.addr := 0x0180, loc.len := 3, loc.cnt := 3, loc.p := true }
    Invariant s ∧ s.fcause = 0 ∧ running s = some (.rxReadExact 0x0180 3) ∧ s.loc.label = .l3r2 := by
  refine ⟨?_, by decide, by decide, by decide⟩
  refine invariant_busy (j := .rxReadExact 0x0180 3) (by decide) (by decide) (by decide)
    (by decide) (by decide) ?_
  intro a n _ hi
  rw [show running _ = some (.rxReadExact 0x0180 3) from by decide] at hi
  cases hi
  decide

/-- RX_N = 8 holds at most seven bytes: RE4. -/
theorem witness_ExactReadHangsBeyondCapacity :
    let s := { busyAt (.rxReadExact 0x0180 8) .l0 ready with sched := [.m] }
    Invariant s ∧ running s = some (.rxReadExact 0x0180 8) ∧ 2 ^ s.cfg.rxK - 1 < (8#16).toNat ∧ s.fcause = 0 ∧
      s.loc.label ∈ [Label.l0, .l1, .l2] ∧ ∃ s', step s = .next s' := by
  refine ⟨?_, by decide, by decide, by decide, by decide, ⟨_, rfl⟩⟩
  refine invariant_busy (j := .rxReadExact 0x0180 8) (by decide) (by decide) (by decide)
    (by decide) (by decide) ?_
  intro a n _ hi
  rw [show running _ = some (.rxReadExact 0x0180 8) from by decide] at hi
  cases hi
  decide

/-! ## Fair executions, for the claims of completion (R252) -/

/-- The states of an execution that takes the listed transitions from a state and then goes on as `rest` does. -/
def along : List Turn → State → (Nat → State) → Nat → State
  | [], _, rest, n => rest n
  | _ :: _, s, _, 0 => s
  | t :: ts, s, rest, n + 1 =>
    match fire t s with
    | .next s' => along ts s' rest n
    | .fault _ | .refused _ => s

/-- The transitions of that execution. -/
def turnsAlong : List Turn → (Nat → Turn) → Nat → Turn
  | [], rest, n => rest n
  | t :: _, _, 0 => t
  | _ :: ts, rest, n + 1 => turnsAlong ts rest n

theorem along_zero (ts : List Turn) (s : State) (rest : Nat → State) (h : runTurns ts s = some (rest 0)) :
    along ts s rest 0 = s := by
  cases ts with
  | nil => exact (Option.some.inj h).symm
  | cons t ts => rfl

theorem isExecution_along : ∀ (ts : List Turn) (s : State) (rest : Nat → State) (turns : Nat → Turn),
    runTurns ts s = some (rest 0) → IsExecution rest turns → IsExecution (along ts s rest) (turnsAlong ts turns)
  | [], _, _, _, _, h => h
  | t :: ts, s, rest, turns, h0, h => by
    simp only [runTurns] at h0
    split_ifs at h0 with he
    cases hf : fire t s with
    | fault r => rw [hf] at h0; cases h0
    | refused r => rw [hf] at h0; cases h0
    | next s' =>
      rw [hf] at h0
      have e : ∀ n, along (t :: ts) s rest (n + 1) = along ts s' rest n := fun n => by simp only [along, hf]
      intro n
      cases n with
      | zero =>
        rw [e, along_zero ts s' rest h0]
        exact ⟨he, hf⟩
      | succ n =>
        rw [e, e]
        exact isExecution_along ts s' rest turns h0 h n

theorem along_rest (ts : List Turn) : ∀ (s : State) (rest : Nat → State) (turns : Nat → Turn),
    runTurns ts s = some (rest 0) → ∀ n,
      along ts s rest (ts.length + n) = rest n ∧ turnsAlong ts turns (ts.length + n) = turns n := by
  induction ts with
  | nil => intro s rest turns _ n; simp [along, turnsAlong]
  | cons t ts ih =>
    intro s rest turns h0 n
    simp only [runTurns] at h0
    split_ifs at h0 with he
    rw [List.length_cons, Nat.add_right_comm]
    cases hf : fire t s with
    | fault r => rw [hf] at h0; cases h0
    | refused r => rw [hf] at h0; cases h0
    | next s' =>
      rw [hf] at h0
      simp only [along, hf, turnsAlong]
      exact ih s' rest turns h0 n

/-- What happens again and again after the listed transitions happens again and again. -/
theorem often_along {ts : List Turn} {s : State} {rest : Nat → State} {turns : Nat → Turn}
    (h : runTurns ts s = some (rest 0)) {P : State → Turn → Prop} (hp : ∀ n, ∃ m, n ≤ m ∧ P (rest m) (turns m)) (n : Nat) :
    ∃ m, n ≤ m ∧ P (along ts s rest m) (turnsAlong ts turns m) := by
  obtain ⟨m, hm, hP⟩ := hp n
  obtain ⟨e1, e2⟩ := along_rest ts s rest turns h m
  exact ⟨ts.length + m, by omega, by rw [e1, e2]; exact hP⟩

/-- Fairness is a matter of the end of an execution. -/
theorem fair_along {ts : List Turn} {s : State} {rest : Nat → State} {turns : Nat → Turn}
    (h : runTurns ts s = some (rest 0)) (hf : Fair rest turns) : Fair (along ts s rest) (turnsAlong ts turns) := by
  refine ⟨fun g => often_along h (P := fun u t => g.owns t = true ∨ ∀ t, g.owns t = true → u.enabled t = false) (hf.1 g), ?_⟩
  intro f ho
  refine often_along h (P := fun _ t => t = .i f) (hf.2 f ?_)
  intro n
  obtain ⟨m, hm, hP⟩ := ho (ts.length + n)
  refine ⟨m - ts.length, by omega, ?_⟩
  rw [← (along_rest ts s rest turns h (m - ts.length)).1, show ts.length + (m - ts.length) = m by omega]
  exact hP

/-- The transitions of a sender that never stops: a byte arrives, its handler runs. -/
def sendingTurn (n : Nat) : Turn := if n % 2 = 0 then .e .rx else .i .rx

/-- The states under such a sender. -/
def receiving (s : State) : Nat → State
  | 0 => s
  | n + 1 =>
    match fire (sendingTurn n) (receiving s n) with
    | .next t => t
    | .fault _ | .refused _ => receiving s n

/-- Agent M has ended, the transmitter is idle, the line is endless, and RXF is full, so that every byte is dropped. -/
structure Saturated (s : State) : Prop where
  blockOk : s.cfg.blockOk = true
  endless : s.cfg.lineEndless = true
  inited : s.inited = true
  rxie : s.rxie = true
  txie : s.txie = false
  rxc : s.rxc = false
  txrdy : s.txrdy = true
  full : s.rxf.isFull s.cfg.rxK = true
  ended : s.mEnabled = false

/-- What a saturated block becomes: only the line's position, RXDR, RXC and RX_DROPPED move. -/
def dropped (s : State) (n l d : Nat) (b : Byte) : State :=
  { s with linPos := l, rxDropped := d, rxdr := b, rxc := decide (n % 2 = 1) }

theorem dropped_step {s : State} (h : Saturated s) (n l d : Nat) (b : Byte) :
    (dropped s n l d b).enabled (sendingTurn n) = true ∧
      ∃ l' d' b', fire (sendingTurn n) (dropped s n l d b) = .next (dropped s (n + 1) l' d' b') := by
  obtain ⟨h1, h2, h3, h4, h5, h6, h7, h8, h9⟩ := h
  obtain ⟨x, hx⟩ : ∃ x, s.cfg.lineAt l = some x := by
    unfold Config.lineAt
    split
    · exact ⟨_, rfl⟩
    · exact ⟨_, by rw [if_pos h2]⟩
  rcases Nat.mod_two_eq_zero_or_one n with hn | hn
  · have hs : (n + 1) % 2 = 1 := by omega
    refine ⟨by simp [sendingTurn, hn, dropped, State.enabled, State.eRxEnabled, h1, hx], l + 1, d, x, ?_⟩
    simp [sendingTurn, hn, hs, dropped, fire, eRx, hx]
  · have hs : (n + 1) % 2 = 0 := by omega
    refine ⟨by simp [sendingTurn, hn, dropped, State.enabled, State.pending, State.ie, State.ready, h1, h3, h4], l, d + 1, b, ?_⟩
    simp [sendingTurn, hn, hs, dropped, fire, handlerOf, exec, execRxIsr, h8]

theorem receiving_form {s : State} (h : Saturated s) (n : Nat) : ∃ l d b, receiving s n = dropped s n l d b := by
  induction n with
  | zero =>
    refine ⟨s.linPos, s.rxDropped, s.rxdr, ?_⟩
    obtain ⟨h1, h2, h3, h4, h5, h6, h7, h8, h9⟩ := h
    cases s
    cases h6
    rfl
  | succ n ih =>
    obtain ⟨l, d, b, e⟩ := ih
    obtain ⟨-, l', d', b', ef⟩ := dropped_step h n l d b
    exact ⟨l', d', b', by simp only [receiving, e, ef]⟩

theorem isExecution_receiving {s : State} (h : Saturated s) : IsExecution (receiving s) sendingTurn := by
  intro n
  obtain ⟨l, d, b, e⟩ := receiving_form h n
  obtain ⟨he, l', d', b', ef⟩ := dropped_step h n l d b
  have : receiving s (n + 1) = dropped s (n + 1) l' d' b' := by simp only [receiving, e, ef]
  rw [this, e]
  exact ⟨he, ef⟩

theorem fair_receiving {s : State} (h : Saturated s) : Fair (receiving s) sendingTurn := by
  have off : ∀ n, (receiving s n).enabled .m = false ∧ (receiving s n).enabled (.i .tx) = false ∧
      (receiving s n).enabled (.e .tx) = false := by
    intro n
    obtain ⟨l, d, b, e⟩ := receiving_form h n
    rw [e]
    have h9 : (dropped s n l d b).mEnabled = false := h.ended
    exact ⟨by simp [State.enabled, h9], by simp [dropped, State.enabled, State.pending, State.ie, h.txie],
      by simp [dropped, State.enabled, h.txrdy]⟩
  have handler : ∀ n, ∃ m, n ≤ m ∧ sendingTurn m = .i .rx :=
    fun n => ⟨2 * n + 1, by omega, if_neg (by omega)⟩
  refine ⟨?_, ?_⟩
  · intro g n
    cases g with
    | agentM =>
      refine ⟨n, Nat.le_refl n, .inr ?_⟩
      intro t ht
      rw [eq_of_beq ht]
      exact (off n).1
    | agentI =>
      obtain ⟨m, hm, e⟩ := handler n
      exact ⟨m, hm, .inl (by rw [e]; rfl)⟩
    | eTx =>
      refine ⟨n, Nat.le_refl n, .inr ?_⟩
      intro t ht
      rw [eq_of_beq ht]
      exact (off n).2.2
  · intro f ho
    cases f with
    | rx => exact handler
    | tx =>
      obtain ⟨m, -, hm⟩ := ho 0
      rw [(off m).2.1] at hm
      cases hm

/-- RX_READ_EXACT of the one byte missing, from its first step: the byte arrives between two polls, the read completes, and the
sender goes on until RXF is full and beyond. -/
def exactStart : State :=
  { busyAt (.rxReadExact 0x0180 7) .l0 (received [1, 2, 3, 4, 5, 6] 0) with
    cfg.lineEndless := true, cfg.lineIn := [7, 1, 2, 3, 4, 5, 6, 7] }

/-- One failing poll, the byte, a poll that succeeds, the read, and seven more bytes. -/
def exactTurns : List Turn :=
  List.replicate 3 .m ++ [.e .rx, .i .rx] ++ List.replicate 13 .m ++
    (List.replicate 7 [Turn.e .rx, Turn.i .rx]).flatten

def exactEnd : State := (runTurns exactTurns exactStart).getD exactStart

theorem exactTurns_run : runTurns exactTurns exactStart = some exactEnd := rfl

/-- The same start after the poll's first step. -/
def polled : State := (runTurns [.m] exactStart).getD exactStart

theorem polled_run : runTurns exactTurns.tail polled = some exactEnd := rfl

theorem saturated_exactEnd : Saturated exactEnd :=
  ⟨rfl, rfl, rfl, rfl, rfl, rfl, rfl, rfl, rfl⟩

/-- A poll that finds RXF one byte short, at a full length for RX_N = 8, and one that finds it empty. -/
theorem witness_ExactReadCompletesUnderFairness :
    (∃ (states : Nat → State) (turns : Nat → Turn),
      Invariant (states 0) ∧ NoFault (states 0) ∧ (states 0).cfg.blockOk = true ∧
      IsExecution states turns ∧ Fair states turns ∧ (∀ k, ∃ m, k ≤ m ∧ turns m = .e .rx) ∧
      running (states 0) = some (.rxReadExact 0x0180 7) ∧ (7#16).toNat ≤ 2 ^ (states 0).cfg.rxK - 1 ∧
      (states 0).loc.label = .l0 ∧ (states 0).rxie = true) ∧
    (∃ (states : Nat → State) (turns : Nat → Turn),
      Invariant (states 0) ∧ NoFault (states 0) ∧ (states 0).cfg.blockOk = true ∧
      IsExecution states turns ∧ Fair states turns ∧ (∀ k, ∃ m, k ≤ m ∧ turns m = .e .rx) ∧
      running (states 0) = some (.rxReadExact 0x0180 7) ∧ (7#16).toNat ≤ 2 ^ (states 0).cfg.rxK - 1 ∧
      (states 0).loc.label ∈ [Label.l1, .l2] ∧ (states 0).loc.p2 = true) ∧
    (let s := busyAt (.rxReadExact 0x0180 1) .l0 ready
     s.cfg.blockOk = true ∧ s.fcause = 0 ∧ running s = some (.rxReadExact 0x0180 1) ∧ s.loc.label = .l0 ∧
      (s.rxf.contents s.cfg.rxK).length < (1#16).toNat) := by
  have often : ∀ {ts : List Turn} {s : State}, runTurns ts s = some exactEnd →
      ∀ k, ∃ m, k ≤ m ∧ turnsAlong ts sendingTurn m = .e .rx := by
    intro ts s h
    refine often_along (rest := receiving exactEnd) h (P := fun _ t => t = .e .rx) ?_
    exact fun n => ⟨2 * n, by omega, if_pos (by omega)⟩
  refine ⟨⟨along exactTurns exactStart (receiving exactEnd), turnsAlong exactTurns sendingTurn, ?_, by unfold NoFault; decide, rfl,
      isExecution_along _ _ _ _ exactTurns_run (isExecution_receiving saturated_exactEnd),
      fair_along exactTurns_run (fair_receiving saturated_exactEnd), often exactTurns_run, rfl, by decide, rfl, rfl⟩,
    ⟨along exactTurns.tail polled (receiving exactEnd), turnsAlong exactTurns.tail sendingTurn, ?_, by unfold NoFault; decide, rfl,
      isExecution_along _ _ _ _ polled_run (isExecution_receiving saturated_exactEnd),
      fair_along polled_run (fair_receiving saturated_exactEnd), often polled_run, rfl, by decide, by decide, rfl⟩, by decide⟩
  · refine invariant_busy (j := .rxReadExact 0x0180 7) (by decide) (by decide) (by decide) (by decide) (by decide) ?_
    intro a n _ hi
    rw [show running _ = some (.rxReadExact 0x0180 7) from rfl] at hi
    cases hi
    decide
  · refine invariant_busy (j := .rxReadExact 0x0180 7) (by decide) (by decide) (by decide) (by decide) (by decide) ?_
    intro a n _ hi
    rw [show running _ = some (.rxReadExact 0x0180 7) from rfl] at hi
    cases hi
    decide

/-! ## Witnesses: transmit -/

theorem witness_TxIsrSendsOrDisables :
    (RB.Wf 2 (sending []).txf ∧ (sending []).txf.contents 2 = []) ∧
      (RB.Wf 2 (sending [0x41]).txf ∧ (sending [0x41]).txf.contents 2 = 0x41 :: []) := by decide

/-- The end of a counted write, the last byte of the space and one past it, a full TXF and one with a slot. -/
theorem witness_TxWriteSteps :
    let s : State := { sending [0x11, 0x22] with loc.addr := 0xFFFF, loc.len := 2 }
    RB.Wf 2 s.txf ∧ (s.loc.len ≠ 0 ∧ { s with loc.cnt := 2 }.loc.cnt = s.loc.len.toNat) ∧
      ¬ (s.loc.len ≠ 0 ∧ s.loc.cnt = s.loc.len.toNat) ∧ s.loc.addr.toNat + s.loc.cnt ≤ 0xFFFF ∧
      (0xFFFF < s.loc.addr.toNat + { s with loc.cnt := 1 }.loc.cnt ∧ s.fcause = 0) ∧
      (RB.Wf 2 (sending [1, 2, 3]).txf ∧ ((sending [1, 2, 3]).txf.contents 2).length + 1 = 2 ^ 2) ∧
      (s.txf.contents 2).length + 1 ≠ 2 ^ 2 := by decide

/-- A write that fills TXF exactly, from a buffer that ends at the top of DATA. -/
theorem witness_TxWriteEnqueuesCounted :
    let s := busyAt (.txWrite .data 0xFFFE 2) .l0 (sending [0x11])
    s.cfg.blockOk = true ∧ s.fcause = 0 ∧ running s = some (.txWrite .data 0xFFFE 2) ∧ s.loc.label = .l0 ∧
      RB.Wf 2 s.txf ∧ 2#16 ≠ 0 ∧ (s.txf.contents 2).length + (2#16).toNat < 2 ^ 2 ∧
      (0xFFFE#16).toNat + (2#16).toNat ≤ 0x10000 := by decide

/-- TW5: the string fills TXF exactly. -/
theorem witness_TxWriteStringStopsAtNull :
    let s := busyAt (.txWrite .prog 0x0040 0) .l0 { sending [] with prog := [(0x40, 0x4F), (0x41, 0x4B), (0x42, 0x0A)] }
    s.cfg.blockOk = true ∧ s.fcause = 0 ∧ running s = some (.txWrite .prog 0x0040 0) ∧ s.loc.label = .l0 ∧
      RB.Wf 2 s.txf ∧ (∀ i, i < 3 → (s.mem .prog).read ((0x0040#16).toNat + i) ≠ 0) ∧
      (s.mem .prog).read ((0x0040#16).toNat + 3) = 0 ∧ (s.txf.contents 2).length + 3 < 2 ^ 2 ∧
      (0x0040#16).toNat + 3 ≤ 0xFFFF := by decide

theorem witness_TransmitHistoryIsOneStream :
    let s := { busyAt (.txWrite .data 0x0300 1) .l2 (sending [0x11]) with sched := [.m] }
    RB.Wf 2 s.txf ∧ ∃ s', step s = .next s' := ⟨by decide, ⟨_, rfl⟩⟩

theorem witness_TransmitDrains :
    let s : State := { sending [0x11, 0x22] with txie := true, txrdy := false, txdr := 0x10 }
    s.cfg.blockOk = true ∧ s.inited = true ∧ s.txie = true ∧ RB.Wf 2 s.txf := by decide

/-- Agent M at L2 of a TX_WRITE with TXF full and the line idle. -/
def spinning (l : Label) (ie : Bool) : State :=
  { busyAt (.txWrite .data 0x0300 1) l (sending [0x11, 0x22, 0x33]) with
    txie := ie, loc.addr := 0x0300, loc.len := 1, loc.c := 0x44 }

/-- The three states of the backpressure loop, in turn. -/
def spin : Nat → State
  | 0 => spinning .l2 false
  | 1 => spinning .l3 true
  | 2 => spinning .l4 true
  | n + 3 => spin n

theorem spin_enabled : ∀ n, (spin n).enabled .m = true
  | 0 => by decide
  | 1 => by decide
  | 2 => by decide
  | n + 3 => spin_enabled n

theorem spin_step : ∀ n, fire .m (spin n) = .next (spin (n + 1))
  | 0 => rfl
  | 1 => rfl
  | 2 => rfl
  | n + 3 => spin_step n

/-- An execution in which agent M alone steps, agent I is disabled at every third state, and E_TX never enabled. -/
theorem witness_TxWriteCompletesUnderWeakFairness :
    Invariant (spin 0) ∧ NoFault (spin 0) ∧ (spin 0).cfg.lineIn = [] ∧ (spin 0).cfg.lineEndless = false ∧
      IsExecution spin (fun _ => .m) ∧ WeaklyFair spin (fun _ => .m) ∧
      running (spin 0) = some (.txWrite .data 0x0300 1) := by
  refine ⟨?_, by unfold NoFault; decide, rfl, rfl, fun n => ⟨spin_enabled n, spin_step n⟩, ?_, by decide⟩
  · exact invariant_busy (j := .txWrite .data 0x0300 1) (by decide) (by decide) (by decide)
      (by decide) (by decide)
      (covered_of (j := .txWrite .data 0x0300 1) (by decide) (by simp))
  · intro g n
    refine ⟨3 * n, by omega, ?_⟩
    have h3 : ∀ n, spin (3 * n) = spinning .l2 false := by
      intro n
      induction n with
      | zero => rfl
      | succ n ih => exact ih
    cases g with
    | agentM => exact .inl rfl
    | agentI =>
      refine .inr ?_
      rw [h3]
      intro t ht
      cases t with
      | i f => cases f <;> decide
      | m => cases ht
      | e f => cases f <;> cases ht
      | test => cases ht
    | eTx =>
      refine .inr ?_
      rw [h3]
      intro t ht
      cases t with
      | e f =>
        cases f with
        | rx => cases ht
        | tx => decide
      | m => cases ht
      | i f => cases f <;> cases ht
      | test => cases ht

/-- TX_WRITE of one byte with TXF full, the line idle and RXF full. -/
def writeStart : State :=
  { spinning .l2 false with
    cfg.lineEndless := true, rxf := fifo 3 0 [1, 2, 3, 4, 5, 6, 7] }

/-- One pass of the loop without progress, one in which TX_ISR removes a byte, the write's end, and the drain. -/
def writeTurns : List Turn :=
  List.replicate 3 .m ++ [.m, .i .tx, .m, .m, .m, .m, .m] ++ (List.replicate 4 [Turn.e .tx, Turn.i .tx]).flatten

def writeEnd : State := (runTurns writeTurns writeStart).getD writeStart

theorem writeTurns_run : runTurns writeTurns writeStart = some writeEnd := rfl

theorem saturated_writeEnd : Saturated writeEnd :=
  ⟨rfl, rfl, rfl, rfl, rfl, rfl, rfl, rfl, rfl⟩

theorem witness_TxWriteCompletesUnderFairness :
    (∃ (states : Nat → State) (turns : Nat → Turn),
      Invariant (states 0) ∧ NoFault (states 0) ∧ (states 0).cfg.blockOk = true ∧
      IsExecution states turns ∧ Fair states turns ∧ running (states 0) = some (.txWrite .data 0x0300 1)) ∧
    (Invariant (spinning .l2 false) ∧ (spinning .l2 false).cfg.blockOk = true ∧ (spinning .l2 false).fcause = 0 ∧
      running (spinning .l2 false) = some (.txWrite .data 0x0300 1) ∧ (spinning .l2 false).loc.label = .l2 ∧
      ((spinning .l2 false).txf.contents 2).length + 1 = 2 ^ 2) := by
  refine ⟨⟨along writeTurns writeStart (receiving writeEnd), turnsAlong writeTurns sendingTurn, ?_, by unfold NoFault; decide, rfl,
      isExecution_along _ _ _ _ writeTurns_run (isExecution_receiving saturated_writeEnd),
      fair_along writeTurns_run (fair_receiving saturated_writeEnd), rfl⟩, ?_, by decide⟩
  · exact invariant_busy (j := .txWrite .data 0x0300 1) (by decide) (by decide) (by decide)
      (by decide) (by decide) (covered_of (j := .txWrite .data 0x0300 1) (by decide) (by simp))
  · exact invariant_busy (j := .txWrite .data 0x0300 1) (by decide) (by decide) (by decide)
      (by decide) (by decide) (covered_of (j := .txWrite .data 0x0300 1) (by decide) (by simp))

/-! ## Witnesses: initialization, fetch, faults, interrupts -/

theorem witness_InitEnablesReceive :
    State.reset.inited = false ∧ (ready.inited = true ∧ ready.fcause = 0) := by decide

/-- The end of the stream, a truncated command, an illegal one, one refused before INIT, one taken, and INIT. -/
theorem witness_FetchFollowsTheStream :
    (ready.loc.busy = false ∧ ready.fcause = 0 ∧ ready.cfg.cmdStream.length ≤ ready.cpc) ∧
      ([0x40000005#32][0]? = some 0x40000005 ∧ [0x40000005#32].length < 0 + cmdLength 0x40000005) ∧
      (∀ i, decode 8 .portM 0x10000005 0 ≠ .ok i) ∧
      (decode 8 .portM 0x31000000 0 = .ok .rxLineAvail ∧ State.reset.inited = false ∧ (∀ n, Instr.rxLineAvail ≠ .init n)) ∧
      (decode 8 .portM 0x32000010 0x000A0100 = .ok (.rxReadUntil 0x0100 16 0x0A) ∧ ready.inited = true) ∧
      decode 8 .portM 0x60000067 0 = .ok (.init 0x0067) := by
  refine ⟨by decide, by decide, ?_, ⟨rfl, by decide, by simp⟩, ⟨rfl, by decide⟩, rfl⟩
  intro i h
  cases h

theorem witness_FaultRecordIsFinal :
    let s : State := { ready with fcause := 0x02, rxc := true, sched := [.i .rx] }
    s.fcause ≠ 0 ∧ ∃ s', step s = .next s' := ⟨by decide, ⟨_, rfl⟩⟩

/-- RX_PENDING with a configuration that is accepted. -/
theorem witness_InterruptsAreLevelSensitive :
    ready.cfg.blockOk = true ∧ State.pending { ready with rxc := true } .rx = true := by decide

theorem witness_HandlersCommute :
    let s : State := { ready with txie := true, rxc := true }
    s.cfg.blockOk = true ∧ s.pending .rx = true ∧ s.pending .tx = true := by decide

theorem witness_GhostsAreNeverRead :
    ready ≠ { ready with lineOut := [1], rxDropped := 2, lineLost := 3 } ∧
      withoutGhosts ready = withoutGhosts { ready with lineOut := [1], rxDropped := 2, lineLost := 3 } := by decide

theorem witness_LineTransfers :
    let s : State := { ready with cfg.lineIn := [0x61] }
    s.cfg.blockOk = true ∧ s.cfg.lineEndless = false ∧ (s.cfg.lineAt s.linPos = some 0x61 ∧ s.rxc = false) ∧
      ({ s with rxc := true }.cfg.lineAt s.linPos = some 0x61 ∧ { s with rxc := true }.rxc = true) := by decide

/-- With the standalone instance's configuration accepted, and refused. -/
theorem witness_ResetLeaves :
    (Config.chosen.blockOk = true ∧ Config.chosen.testOk = true) ∧
      (Config.blockOk { Config.chosen with testW := 17 } = true ∧ Config.testOk { Config.chosen with testW := 17 } = false) := by
  decide

theorem witness_RefusedConfigurationNeverRuns : Config.blockOk { Config.chosen with rxK := 9 } = false := by decide

/-! ## Witnesses: frames and whole-machine rules -/

theorem witness_ProgAndConfigurationNeverChange :
    ∃ s', step { withStream [0x60000067] State.reset with sched := [.m] } = .next s' := ⟨_, rfl⟩

/-- A command that stores, at the last byte of DATA and one past it. -/
theorem witness_DataWritesLandAtTheBufferByte :
    let s : State := { received [0x61, 0x62] 0 with loc.label := .l1, loc.lim := 9, loc.addr := 0xFFFF }
    (∃ t, exec (.rxReadUntil 0xFFFF 9 0) s = .next t) ∧ bufferByte s.loc.addr s.loc.cnt = 0xFFFF ∧
      (∃ t, exec (.rxReadUntil 0xFFFF 9 0) { s with loc.cnt := 1 } = .next t) ∧
      0xFFFF < bufferByte s.loc.addr { s with loc.cnt := 1 }.loc.cnt := ⟨⟨_, rfl⟩, by decide, ⟨_, rfl⟩, by decide⟩

theorem witness_RegistersChangeOnlyByTheirWriters :
    (∃ t, exec .rxIsr { ready with rxc := true } = .next t) ∧ mayWrite .rxIsr .ier = false ∧
      mayWrite .rxIsr .gstkRx = false ∧ mayWrite .rxIsr .gstkTx = false ∧
      (∃ t, exec (.csDisable .tx) ready = .next t) ∧ mayWrite (.csDisable .tx) .gstkRx = false :=
  ⟨⟨_, rfl⟩, rfl, rfl, rfl, ⟨_, rfl⟩, rfl⟩

theorem witness_EachCommandLeavesTheRest :
    (∃ t, exec (.txWrite .data 0x0300 1) ready = .next t) ∧ (Instr.txWrite .data 0x0300 1).port ≠ .portT ∧
      (Instr.txIsr).port ≠ .portM ∧ (Instr.rxAvail).isInit = false := ⟨⟨_, rfl⟩, by decide, by decide, rfl⟩

theorem witness_ScheduledTurnRuns :
    let s : State := { ready with rxc := true, sched := [.i .rx, .m] }
    s.sched = .i .rx :: [.m] ∧ s.enabled (.i .rx) = true := by decide

theorem witness_StepRunsTheCommandInProgress :
    let s : State := { busyAt .rxAvail .l0 ready with sched := [.m] }
    s.sched = .m :: [] ∧ s.cfg.blockOk = true ∧ s.fcause = 0 ∧ s.loc.busy = true ∧
      decode s.cfg.testW .portM s.loc.cur0 s.loc.cur1 = .ok .rxAvail := ⟨rfl, by decide, rfl, rfl, rfl⟩

theorem witness_StepTakesAnEnabledTurn :
    let s : State := { ready with txrdy := false, sched := [.e .tx] }
    (∃ s', step s = .next s') ∧ ∃ t, s.enabled t = true := ⟨⟨_, rfl⟩, ⟨.e .tx, by decide⟩⟩

/-- A final state, and one in which nothing steps but agent M is stopped by a fault. -/
theorem witness_FinalStateEndsTheRun :
    (ready.cfg.blockOk = true ∧ ready.test.input = [] ∧ ready.isFinal = true) ∧
      { ready with fcause := 0x03 }.isFinal = false := by decide

/-! ## Witnesses: invariants -/

theorem witness_StartHasTheInvariant :
    Start { State.resetOf Config.chosen [(0x300, 0x41)] [] with test.input := [0x10000005], sched := [.test] } :=
  ⟨Config.chosen, [(0x300, 0x41)], [], [0x10000005], [.test], by decide, by decide, by decide, by decide, rfl⟩

theorem witness_StepKeepsTheInvariant :
    Invariant { ready with txrdy := false, sched := [.e .tx] } ∧
      ∃ s', step { ready with txrdy := false, sched := [.e .tx] } = .next s' :=
  ⟨invariant_idle (by decide) rfl, ⟨_, rfl⟩⟩

theorem witness_InvariantMeansProgress :
    Invariant { ready with txrdy := false } ∧ ∃ t, { ready with txrdy := false }.enabled t = true :=
  ⟨invariant_idle (by decide) rfl, ⟨.e .tx, by decide⟩⟩

/-- A state one step after a start. -/
theorem witness_NewlineCountOfReachableStates : ∃ s, Reachable s ∧ s.inited = false ∧ s.loc.busy = true :=
  ⟨_, .next (.start (s := { State.resetOf { Config.chosen with cmdStream := [0x60000067] } [] [] with
      test.input := [], sched := [.m] })
    ⟨_, [], [], [], [.m], by decide, by decide, by decide, by decide, rfl⟩) rfl, rfl, rfl⟩

/-- Agent M about to open a mainline transmit guard over a TXF that holds a byte. -/
theorem witness_TransmitGateIsKept :
    let s : State := { busyAt (.csDisable .tx) .l0 (sending [0x41]) with txie := true, sched := [.m] }
    Invariant s ∧ TransmitGate s ∧ ¬ WritesInsideGuard s ∧ ∃ s', step s = .next s' := by
  refine ⟨?_, ?_, ?_, ⟨_, rfl⟩⟩
  · exact invariant_busy (j := .csDisable .tx) (by decide) (by decide) (by decide)
      (by decide) (by decide)
      (covered_of (j := .csDisable .tx) (by decide) (by simp))
  · intro _ _
    rfl
  · rintro ⟨h, _⟩
    exact h rfl

end Sys2Proof.Tests
end

/-! ## Decoding and the command in progress -/

namespace Sys2Proof

/-- The operands do not change a row's issuer. -/
@[simp] theorem Opcode.assemble_port (w0 w1 : Word) (o : Opcode) : (o.assemble w0 w1).port = o.port := by
  cases o <;> rfl

/-- A word decodes on a port only to a command of that port (R75). -/
theorem decode_port {W : Nat} {p : Port} {w0 w1 : Word} {i : Instr} (h : decode W p w0 w1 = .ok i) : i.port = p := by
  obtain ⟨o, -, hp, -, -, rfl⟩ := decode_ok_cases h
  rw [Opcode.assemble_port, hp]

/-- INIT is the one constructor that `isInit` answers. -/
theorem Instr.isInit_eq_true {i : Instr} : i.isInit = true ↔ ∃ n, i = .init n := by
  cases i <;> simp [Instr.isInit]

end Sys2Proof

namespace Sys2Proof.Machine

theorem running_eq_some {s : State} {i : Instr} :
    running s = some i ↔ s.loc.busy = true ∧ decodeCurrent s = .ok i := by
  unfold running
  cases s.loc.busy with
  | false => simp
  | true => cases decodeCurrent s <;> simp [Except.toOption]

theorem running_idle {s : State} (hb : s.loc.busy = false) : running s = none := by simp [running, hb]

theorem running_port {s : State} {i : Instr} (hr : running s = some i) : i.port = .portM :=
  decode_port (running_eq_some.mp hr).2

/-- At a command boundary agent M fetches. -/
theorem mStep_idle {s : State} (hb : s.loc.busy = false) : mStep s = .next (fetch s) := by simp [mStep, hb]

/-- Inside a command agent M runs the command's current step. -/
theorem mStep_running {s : State} {i : Instr} (hr : running s = some i) : mStep s = exec i s := by
  obtain ⟨hb, hd⟩ := running_eq_some.mp hr
  simp only [mStep, hb, hd, if_true]

/-- Everything a step of agent M with a next state can be. -/
theorem mStep_cases {s t : State} (h : mStep s = .next t) :
    (s.loc.busy = false ∧ t = fetch s) ∨ ∃ i, running s = some i ∧ exec i s = .next t := by
  cases hb : s.loc.busy with
  | false =>
    rw [mStep_idle hb] at h
    cases h
    exact .inl ⟨rfl, rfl⟩
  | true =>
    cases hd : decodeCurrent s with
    | error e => simp [mStep, hb, hd] at h
    | ok i =>
      have hr : running s = some i := running_eq_some.mpr ⟨hb, hd⟩
      exact .inr ⟨i, hr, mStep_running hr ▸ h⟩

/-- A word of port T: nothing is presented, an illegal word stops the port, or a command of port T runs (R110). -/
theorem tStep_cases (s : State) :
    (s.test.input = [] ∧ tStep s = .next s) ∨
      ∃ w rest, s.test.input = w :: rest ∧
        (((∃ e, decode s.cfg.testW .portT w 0 = .error e) ∧
            tStep s = .next { s with test := { s.test with input := rest, fcause := Cause.code .illegalCommand } }) ∨
          ∃ i, i.port = .portT ∧ decode s.cfg.testW .portT w 0 = .ok i ∧
            tStep s = exec i { s with test.input := rest }) := by
  unfold tStep takeTestWord
  cases hi : s.test.input with
  | nil => exact .inl ⟨rfl, rfl⟩
  | cons w rest =>
    refine .inr ⟨w, rest, rfl, ?_⟩
    dsimp only
    cases hd : decode s.cfg.testW .portT w 0 with
    | error e => exact .inl ⟨⟨e, rfl⟩, rfl⟩
    | ok i => exact .inr ⟨i, decode_port hd, rfl, rfl⟩

/-! ## What one step of each command can do -/

theorem execCsDisable_cases {f : Source} {s t : State} (h : exec (.csDisable f) s = .next t) :
    (s.gsp f = s.cfg.gdepth ∧ t = raiseFault .usageFault 0 s) ∨
      (s.gsp f ≠ s.cfg.gdepth ∧
        t = finish { ((s.setGstk f (s.ie f :: s.gstk f)).setIe f false) with res := bit16 (s.ie f) }) := by
  simp only [exec, execCsDisable] at h
  split at h <;> cases h
  · exact .inl ⟨‹_›, rfl⟩
  · exact .inr ⟨‹_›, rfl⟩

theorem execCsRestore_cases {f : Source} {s t : State} (h : exec (.csRestore f) s = .next t) :
    (s.gstk f = [] ∧ t = raiseFault .usageFault 0 s) ∨
      ∃ p rest, s.gstk f = p :: rest ∧ t = finish ((s.setGstk f rest).setIe f p) := by
  simp only [exec, execCsRestore] at h
  split at h <;> cases h
  · exact .inl ⟨‹_›, rfl⟩
  · exact .inr ⟨_, _, ‹_›, rfl⟩

theorem execRxAvail_cases {s t : State} (h : exec .rxAvail s = .next t) :
    (s.loc.label = .l0 ∧ t = { s with rxie := false, loc := { s.loc with p := s.rxie, label := .l1 } }) ∨
      (s.loc.label = .l1 ∧ t = { s with loc := { s.loc with cnt := s.rxf.count s.cfg.rxK, label := .l2 } }) ∨
      (s.loc.label = .l2 ∧
        t = { s with rxie := s.loc.p, res := BitVec.ofNat 16 s.loc.cnt, loc.busy := false }) := by
  simp only [exec, execRxAvail] at h
  split at h <;> cases h
  · exact .inl ⟨‹_›, rfl⟩
  · exact .inr (.inl ⟨‹_›, rfl⟩)
  · exact .inr (.inr ⟨‹_›, rfl⟩)

theorem execRxLineAvail_eq {s t : State} (h : exec .rxLineAvail s = .next t) :
    t = { s with res := bit16 (s.nlcnt != 0), loc.busy := false } := by
  cases h
  rfl

theorem execRxReadUntil_cases {a n : Half} {e : Byte} {s t : State} (h : exec (.rxReadUntil a n e) s = .next t) :
    (s.loc.label = .l0 ∧ t = readUntilEnter a n e .l1 s) ∨
      (s.loc.label = .l1 ∧ t = readUntilPass .l1 .l2 s) ∨
      (s.loc.label = .l2 ∧ (readUntilExit s = .error t ∨ ∃ u, readUntilExit s = .ok u ∧ t = finish u)) := by
  simp only [exec, execRxReadUntil] at h
  split at h
  case h_3 =>
    split at h <;> cases h
    · exact .inr (.inr ⟨‹_›, .inl ‹_›⟩)
    · exact .inr (.inr ⟨‹_›, .inr ⟨_, ‹_›, rfl⟩⟩)
  all_goals cases h
  · exact .inl ⟨‹_›, rfl⟩
  · exact .inr (.inl ⟨‹_›, rfl⟩)

theorem execRxReadExact_cases {a n : Half} {s t : State} (h : exec (.rxReadExact a n) s = .next t) :
    (s.loc.label = .l0 ∧
        t = { s with rxie := false, loc := { s.loc with addr := a, len := n, p2 := s.rxie, label := .l1 } }) ∨
      (s.loc.label = .l1 ∧ t = { s with loc := { s.loc with cnt := s.rxf.count s.cfg.rxK, label := .l2 } }) ∨
      (s.loc.label = .l2 ∧ t = { s with
        rxie := s.loc.p2, loc.label := if s.loc.cnt < s.loc.len.toNat then .l0 else .l3r0 }) ∨
      (s.loc.label = .l3r0 ∧ t = readUntilEnter s.loc.addr s.loc.len 0 .l3r1 s) ∨
      (s.loc.label = .l3r1 ∧ t = readUntilPass .l3r1 .l3r2 s) ∨
      (s.loc.label = .l3r2 ∧ (readUntilExit s = .error t ∨
        ∃ u, readUntilExit s = .ok u ∧ t = finish { u with res := bit16 (u.loc.cnt == u.loc.len.toNat) })) := by
  simp only [exec, execRxReadExact] at h
  split at h
  case h_6 =>
    split at h <;> cases h
    · exact .inr (.inr (.inr (.inr (.inr ⟨‹_›, .inl ‹_›⟩))))
    · exact .inr (.inr (.inr (.inr (.inr ⟨‹_›, .inr ⟨_, ‹_›, rfl⟩⟩))))
  all_goals cases h
  · exact .inl ⟨‹_›, rfl⟩
  · exact .inr (.inl ⟨‹_›, rfl⟩)
  · exact .inr (.inr (.inl ⟨‹_›, rfl⟩))
  · exact .inr (.inr (.inr (.inl ⟨‹_›, rfl⟩)))
  · exact .inr (.inr (.inr (.inr (.inl ⟨‹_›, rfl⟩))))

theorem execTxWrite_cases {sp : Space} {a n : Half} {s t : State} (h : exec (.txWrite sp a n) s = .next t) :
    (s.loc.label = .l0 ∧ t = { s with
        txie := false,
        loc := { s.loc with space := sp, addr := a, len := n, cnt := 0, p := s.txie, label := .l1 } }) ∨
      (s.loc.label = .l1 ∧ t = txFetch s) ∨
      (s.loc.label = .l2 ∧ t = txPush s) ∨
      (s.loc.label = .l3 ∧ t = { s with loc.label := .l4 }) ∨
      (s.loc.label = .l4 ∧ t = { s with txie := false, loc.label := .l2 }) ∨
      (s.loc.label = .l5 ∧ t = { s with txie := true, res := BitVec.ofNat 16 s.loc.cnt, loc.busy := false }) := by
  simp only [exec, execTxWrite] at h
  split at h <;> cases h
  · exact .inl ⟨‹_›, rfl⟩
  · exact .inr (.inl ⟨‹_›, rfl⟩)
  · exact .inr (.inr (.inl ⟨‹_›, rfl⟩))
  · exact .inr (.inr (.inr (.inl ⟨‹_›, rfl⟩)))
  · exact .inr (.inr (.inr (.inr (.inl ⟨‹_›, rfl⟩))))
  · exact .inr (.inr (.inr (.inr (.inr ⟨‹_›, rfl⟩))))

theorem execInit_cases {n : Half} {s t : State} (h : exec (.init n) s = .next t) :
    (s.inited = true ∧ t = refuse .refusedReinit s) ∨
      (s.inited = false ∧
        t = { s with baudcfg := n, rxie := true, txie := false, inited := true, loc.busy := false }) := by
  simp only [exec, execInit] at h
  split at h <;> cases h
  · exact .inl ⟨‹_›, rfl⟩
  · exact .inr ⟨by simpa using ‹¬ s.inited = true›, rfl⟩

theorem execRxIsr_cases {s t : State} (h : exec .rxIsr s = .next t) :
    (s.rxf.isFull s.cfg.rxK = true ∧ t = { s with rxc := false, rxDropped := s.rxDropped + 1 }) ∨
      (s.rxf.isFull s.cfg.rxK = false ∧ t = { s with
        rxc := false, rxf := (s.rxf.write s.cfg.rxK s.rxdr).2,
        nlcnt := if s.rxdr = newline then s.nlcnt + 1 else s.nlcnt }) := by
  simp only [exec, execRxIsr, countNewline_eq] at h
  split at h <;> cases h
  · exact .inl ⟨‹_›, rfl⟩
  · exact .inr ⟨by simpa using ‹¬ s.rxf.isFull s.cfg.rxK = true›, rfl⟩

theorem execTxIsr_cases {s t : State} (h : exec .txIsr s = .next t) :
    (s.txf.isEmpty = true ∧ t = { s with txie := false }) ∨
      (s.txf.isEmpty = false ∧ t = { s with
        txf := (s.txf.read s.cfg.txK).2, txdr := (s.txf.read s.cfg.txK).1, txrdy := false }) := by
  simp only [exec, execTxIsr] at h
  split at h <;> cases h
  · exact .inl ⟨‹_›, rfl⟩
  · exact .inr ⟨by simpa using ‹¬ s.txf.isEmpty = true›, rfl⟩

/-- A primitive of port T has a next state, and writes only the ring buffer and RES of that port. -/
theorem exec_portT {i : Instr} (hp : i.port = .portT) (s : State) :
    ∃ rb v, exec i s = .next { s with test := { s.test with rb := rb, res := v } } := by
  cases i with
  | rbWrite v => exact ⟨_, _, rfl⟩
  | rbRead => exact ⟨_, _, rfl⟩
  | rbCount => exact ⟨_, _, rfl⟩
  | rbIsfull => exact ⟨_, _, rfl⟩
  | rbIsempty => exact ⟨_, _, rfl⟩
  | _ => cases hp

theorem portT_frame {i : Instr} (hp : i.port = .portT) {s t : State} (h : exec i s = .next t) :
    ∃ rb v, t = { s with test := { s.test with rb := rb, res := v } } := by
  obtain ⟨_, _, he⟩ := exec_portT hp s
  cases he.symm.trans h
  exact ⟨_, _, rfl⟩

end Sys2Proof.Machine

/-! ## The frames of the commands

Each lemma writes the next state as the state before with the fields the command may change, so that a claim about any
other field is one about equal states. -/

namespace Sys2Proof.Machine

theorem raiseFault_frame (c : Cause) (a : Half) (s : State) :
    ∃ fc fw fa, raiseFault c a s = { s with fcause := fc, fword := fw, faddr := fa } := by
  rcases raiseFault_cases c a s with ⟨-, e⟩ | ⟨-, e⟩ <;> exact ⟨_, _, _, e⟩

theorem refuse_frame (c : Cause) (s : State) :
    ∃ fc fw, refuse c s = { s with refused := true, fcause := fc, fword := fw } := by
  rcases refuse_cases c s with ⟨-, e⟩ | ⟨-, e⟩ <;> exact ⟨_, _, e⟩

theorem readUntilEnter_frame (a n : Half) (e : Byte) (l : Label) (s : State) :
    ∃ ie lo fc fw fa, readUntilEnter a n e l s =
      { s with rxie := ie, loc := lo, fcause := fc, fword := fw, faddr := fa } := by
  rcases readUntilEnter_cases a n e l s with ⟨-, -, he⟩ | ⟨-, he⟩
  · obtain ⟨_, _, _, hf⟩ := raiseFault_frame .usageFault 0 s
    exact ⟨_, _, _, _, _, he.trans hf⟩
  · exact ⟨_, _, _, _, _, he⟩

theorem readUntilPass_frame (l m : Label) (s : State) :
    ∃ q nl d lo fc fw fa, readUntilPass l m s =
      { s with rxf := q, nlcnt := nl, data := d, loc := lo, fcause := fc, fword := fw, faddr := fa } := by
  rcases readUntilPass_cases l m s with ⟨-, he⟩ | ⟨-, -, ⟨-, -, he⟩ | ⟨-, -, he⟩ | ⟨-, -, he⟩⟩
  case inr.inr.inr =>
    obtain ⟨_, _, _, hf⟩ := raiseFault_frame .accessFault _ _
    exact ⟨_, _, _, _, _, _, _, he.trans hf⟩
  all_goals exact ⟨_, _, _, _, _, _, _, he⟩

theorem readUntilExit_ok_frame {s u : State} (h : readUntilExit s = .ok u) :
    ∃ d ie r, u = { s with data := d, rxie := ie, res := r } := by
  rcases readUntilExit_cases s with ⟨-, he⟩ | ⟨-, -, he⟩ | ⟨-, -, he⟩ <;> cases he.symm.trans h
  all_goals exact ⟨_, _, _, rfl⟩

/-- The one way in which L2 of RX_READ_UNTIL does not end is a fault of the null's store. -/
theorem readUntilExit_error {s t : State} (h : readUntilExit s = .error t) : ∃ c a, t = raiseFault c a s := by
  rcases readUntilExit_cases s with ⟨-, he⟩ | ⟨-, -, he⟩ | ⟨-, -, he⟩ <;> cases he.symm.trans h
  exact ⟨_, _, rfl⟩

theorem readUntilExit_error_frame {s t : State} (h : readUntilExit s = .error t) :
    ∃ fc fw fa, t = { s with fcause := fc, fword := fw, faddr := fa } := by
  obtain ⟨c, a, rfl⟩ := readUntilExit_error h
  exact raiseFault_frame c a s

theorem txFetch_frame (s : State) :
    ∃ lo fc fw fa, txFetch s = { s with loc := lo, fcause := fc, fword := fw, faddr := fa } := by
  rcases txFetch_cases s with ⟨-, -, he⟩ | ⟨-, ⟨-, he⟩ | ⟨-, he⟩⟩
  case inr.inr =>
    obtain ⟨_, _, _, hf⟩ := raiseFault_frame .accessFault _ s
    exact ⟨_, _, _, _, he.trans hf⟩
  all_goals exact ⟨_, _, _, _, he⟩

theorem txPush_frame (s : State) : ∃ q ie lo, txPush s = { s with txf := q, txie := ie, loc := lo } := by
  rcases txPush_cases s with ⟨-, he⟩ | ⟨-, he⟩ <;> exact ⟨_, _, _, he⟩

theorem csDisable_frame {f : Source} {s t : State} (h : exec (.csDisable f) s = .next t) :
    ∃ ie g r lo fc fw fa, t = { (s.setGstk f g).setIe f ie with
      res := r, loc := lo, fcause := fc, fword := fw, faddr := fa } := by
  rcases execCsDisable_cases h with ⟨-, rfl⟩ | ⟨-, rfl⟩
  · obtain ⟨_, _, _, hf⟩ := raiseFault_frame .usageFault 0 s
    exact ⟨s.ie f, s.gstk f, s.res, s.loc, _, _, _, hf.trans (by cases f <;> rfl)⟩
  · exact ⟨_, _, _, _, _, _, _, rfl⟩

theorem csRestore_frame {f : Source} {s t : State} (h : exec (.csRestore f) s = .next t) :
    ∃ ie g lo fc fw fa, t = { (s.setGstk f g).setIe f ie with
      loc := lo, fcause := fc, fword := fw, faddr := fa } := by
  rcases execCsRestore_cases h with ⟨-, rfl⟩ | ⟨_, _, -, rfl⟩
  · obtain ⟨_, _, _, hf⟩ := raiseFault_frame .usageFault 0 s
    exact ⟨s.ie f, s.gstk f, s.loc, _, _, _, hf.trans (by cases f <;> rfl)⟩
  · exact ⟨_, _, _, _, _, _, rfl⟩

theorem rxAvail_frame {s t : State} (h : exec .rxAvail s = .next t) :
    ∃ ie r lo, t = { s with rxie := ie, res := r, loc := lo } := by
  rcases execRxAvail_cases h with ⟨-, rfl⟩ | ⟨-, rfl⟩ | ⟨-, rfl⟩ <;> exact ⟨_, _, _, rfl⟩

theorem rxReadUntil_frame {a n : Half} {e : Byte} {s t : State} (h : exec (.rxReadUntil a n e) s = .next t) :
    ∃ ie q nl d r lo fc fw fa, t = { s with
      rxie := ie, rxf := q, nlcnt := nl, data := d, res := r, loc := lo, fcause := fc, fword := fw, faddr := fa } := by
  rcases execRxReadUntil_cases h with ⟨-, rfl⟩ | ⟨-, rfl⟩ | ⟨-, he | ⟨u, he, rfl⟩⟩
  · obtain ⟨_, _, _, _, _, hf⟩ := readUntilEnter_frame a n e .l1 s
    exact ⟨_, _, _, _, _, _, _, _, _, hf⟩
  · obtain ⟨_, _, _, _, _, _, _, hf⟩ := readUntilPass_frame .l1 .l2 s
    exact ⟨_, _, _, _, _, _, _, _, _, hf⟩
  · obtain ⟨_, _, _, hf⟩ := readUntilExit_error_frame he
    exact ⟨_, _, _, _, _, _, _, _, _, hf⟩
  · obtain ⟨_, _, _, rfl⟩ := readUntilExit_ok_frame he
    exact ⟨_, _, _, _, _, _, _, _, _, rfl⟩

theorem rxReadExact_frame {a n : Half} {s t : State} (h : exec (.rxReadExact a n) s = .next t) :
    ∃ ie q nl d r lo fc fw fa, t = { s with
      rxie := ie, rxf := q, nlcnt := nl, data := d, res := r, loc := lo, fcause := fc, fword := fw, faddr := fa } := by
  rcases execRxReadExact_cases h with
    ⟨-, rfl⟩ | ⟨-, rfl⟩ | ⟨-, rfl⟩ | ⟨-, rfl⟩ | ⟨-, rfl⟩ | ⟨-, he | ⟨u, he, rfl⟩⟩
  · exact ⟨_, _, _, _, _, _, _, _, _, rfl⟩
  · exact ⟨_, _, _, _, _, _, _, _, _, rfl⟩
  · exact ⟨_, _, _, _, _, _, _, _, _, rfl⟩
  · obtain ⟨_, _, _, _, _, hf⟩ := readUntilEnter_frame s.loc.addr s.loc.len 0 .l3r1 s
    exact ⟨_, _, _, _, _, _, _, _, _, hf⟩
  · obtain ⟨_, _, _, _, _, _, _, hf⟩ := readUntilPass_frame .l3r1 .l3r2 s
    exact ⟨_, _, _, _, _, _, _, _, _, hf⟩
  · obtain ⟨_, _, _, hf⟩ := readUntilExit_error_frame he
    exact ⟨_, _, _, _, _, _, _, _, _, hf⟩
  · obtain ⟨_, _, _, rfl⟩ := readUntilExit_ok_frame he
    exact ⟨_, _, _, _, _, _, _, _, _, rfl⟩

theorem txWrite_frame {sp : Space} {a n : Half} {s t : State} (h : exec (.txWrite sp a n) s = .next t) :
    ∃ q ie r lo fc fw fa, t = { s with
      txf := q, txie := ie, res := r, loc := lo, fcause := fc, fword := fw, faddr := fa } := by
  rcases execTxWrite_cases h with ⟨-, rfl⟩ | ⟨-, rfl⟩ | ⟨-, rfl⟩ | ⟨-, rfl⟩ | ⟨-, rfl⟩ | ⟨-, rfl⟩
  case inr.inl =>
    obtain ⟨_, _, _, _, hf⟩ := txFetch_frame s
    exact ⟨_, _, _, _, _, _, _, hf⟩
  case inr.inr.inl =>
    obtain ⟨_, _, _, hf⟩ := txPush_frame s
    exact ⟨_, _, _, _, _, _, _, hf⟩
  all_goals exact ⟨_, _, _, _, _, _, _, rfl⟩

theorem init_frame {n : Half} {s t : State} (h : exec (.init n) s = .next t) :
    ∃ rie tie b ini rf fc fw lo, t = { s with
      rxie := rie, txie := tie, baudcfg := b, inited := ini, refused := rf, fcause := fc, fword := fw, loc := lo } := by
  rcases execInit_cases h with ⟨-, rfl⟩ | ⟨-, rfl⟩
  · obtain ⟨_, _, hf⟩ := refuse_frame .refusedReinit s
    exact ⟨_, _, _, _, _, _, _, _, hf⟩
  · exact ⟨_, _, _, _, _, _, _, _, rfl⟩

theorem rxIsr_frame {s t : State} (h : exec .rxIsr s = .next t) :
    ∃ q nl d, t = { s with rxc := false, rxf := q, nlcnt := nl, rxDropped := d } := by
  rcases execRxIsr_cases h with ⟨-, rfl⟩ | ⟨-, rfl⟩ <;> exact ⟨_, _, _, rfl⟩

theorem txIsr_frame {s t : State} (h : exec .txIsr s = .next t) :
    ∃ ie q b r, t = { s with txie := ie, txf := q, txdr := b, txrdy := r } := by
  rcases execTxIsr_cases h with ⟨-, rfl⟩ | ⟨-, rfl⟩ <;> exact ⟨_, _, _, _, rfl⟩

end Sys2Proof.Machine

namespace Sys2Proof.Machine

/-! ## The frame of every command -/

/-- Settles O48: the frame of the command, with its own fields eliminated, leaves only the registers of its row. -/
theorem registersChangeOnlyByTheirWriters : Obligations.RegistersChangeOnlyByTheirWriters := by
  unfold Obligations.RegistersChangeOnlyByTheirWriters
  intro i s t r h hw
  cases i
  case' csDisable f => obtain ⟨_, _, _, _, _, _, _, rfl⟩ := csDisable_frame h; cases f
  case' csRestore f => obtain ⟨_, _, _, _, _, _, rfl⟩ := csRestore_frame h; cases f
  case' rxAvail => obtain ⟨_, _, _, rfl⟩ := rxAvail_frame h
  case' rxLineAvail => obtain rfl := execRxLineAvail_eq h
  case' rxReadUntil => obtain ⟨_, _, _, _, _, _, _, _, _, rfl⟩ := rxReadUntil_frame h
  case' rxReadExact => obtain ⟨_, _, _, _, _, _, _, _, _, rfl⟩ := rxReadExact_frame h
  case' txWrite => obtain ⟨_, _, _, _, _, _, _, rfl⟩ := txWrite_frame h
  case' rxIsr => obtain ⟨_, _, _, rfl⟩ := rxIsr_frame h
  case' txIsr => obtain ⟨_, _, _, _, rfl⟩ := txIsr_frame h
  case' init => obtain ⟨_, _, _, _, _, _, _, _, rfl⟩ := init_frame h
  case' rbWrite | rbRead | rbCount | rbIsfull | rbIsempty => obtain ⟨_, _, rfl⟩ := portT_frame (by rfl) h
  all_goals cases r <;> simp [mayWrite, State.readReg] at hw ⊢

/-- Settles O49: the fields that the frame of a command does not name are those of the state before. -/
theorem eachCommandLeavesTheRest : Obligations.EachCommandLeavesTheRest := by
  unfold Obligations.EachCommandLeavesTheRest
  intro i s t h
  cases i
  case' csDisable => obtain ⟨_, _, _, _, _, _, _, rfl⟩ := csDisable_frame h
  case' csRestore => obtain ⟨_, _, _, _, _, _, rfl⟩ := csRestore_frame h
  case' rxAvail => obtain ⟨_, _, _, rfl⟩ := rxAvail_frame h
  case' rxLineAvail => obtain rfl := execRxLineAvail_eq h
  case' rxReadUntil => obtain ⟨_, _, _, _, _, _, _, _, _, rfl⟩ := rxReadUntil_frame h
  case' rxReadExact => obtain ⟨_, _, _, _, _, _, _, _, _, rfl⟩ := rxReadExact_frame h
  case' txWrite => obtain ⟨_, _, _, _, _, _, _, rfl⟩ := txWrite_frame h
  case' rxIsr => obtain ⟨_, _, _, rfl⟩ := rxIsr_frame h
  case' txIsr => obtain ⟨_, _, _, _, rfl⟩ := txIsr_frame h
  case' init => obtain ⟨_, _, _, _, _, _, _, _, rfl⟩ := init_frame h
  case' rbWrite | rbRead | rbCount | rbIsfull | rbIsempty => obtain ⟨_, _, rfl⟩ := portT_frame (by rfl) h
  all_goals simp [Instr.port, Instr.isInit]

/-- A command of another port than T leaves port T alone. -/
theorem exec_test {i : Instr} (hp : i.port ≠ .portT) {s t : State} (h : exec i s = .next t) : t.test = s.test := by
  obtain ⟨-, -, -, -, -, -, -, -, htest, -⟩ := eachCommandLeavesTheRest i s t h
  exact htest hp

/-! ## The transitions of the agents -/

/-- A fetch writes only CPC, the fault record and agent M's micro-state. -/
theorem fetch_frame (s : State) :
    ∃ n lo fc fw fa rf, fetch s =
      { s with cpc := n, loc := lo, fcause := fc, fword := fw, faddr := fa, refused := rf } := by
  rcases fetch_cases s with ⟨-, he⟩ | ⟨w0, -, ⟨-, he⟩ | ⟨-, w1, -, ⟨-, he⟩ | ⟨i, -, ⟨-, -, he⟩ | ⟨-, he⟩⟩⟩⟩
  · exact ⟨_, _, _, _, _, _, he⟩
  · obtain ⟨_, _, _, hf⟩ := raiseFault_frame .illegalCommand 0 { s with loc.cur0 := w0 }
    exact ⟨_, _, _, _, _, _, he.trans hf⟩
  · obtain ⟨_, _, _, hf⟩ :=
      raiseFault_frame .illegalCommand 0 { s with loc := { s.loc with cur0 := w0, cur1 := w1 } }
    exact ⟨_, _, _, _, _, _, he.trans hf⟩
  · obtain ⟨_, _, hf⟩ := refuse_frame .refusedBeforeInit { s with loc := { s.loc with cur0 := w0, cur1 := w1 } }
    exact ⟨_, _, _, _, _, _, he.trans hf⟩
  · exact ⟨_, _, _, _, _, _, he⟩

theorem eRx_frame (s : State) :
    ∃ n l b c, eRx s = { s with linPos := n, lineLost := l, rxdr := b, rxc := c } := by
  unfold eRx
  split
  · exact ⟨_, _, _, _, rfl⟩
  · split <;> exact ⟨_, _, _, _, rfl⟩

/-- A step of agent M leaves port T alone. -/
theorem mStep_test {s t : State} (h : mStep s = .next t) : t.test = s.test := by
  rcases mStep_cases h with ⟨-, rfl⟩ | ⟨i, hr, he⟩
  · obtain ⟨_, _, _, _, _, _, hf⟩ := fetch_frame s
    rw [hf]
  · exact exec_test (by rw [running_port hr]; decide) he

theorem handlerOf_port (f : Source) : (handlerOf f).port = .portI := by cases f <;> rfl

/-- A word of port T changes only the state of port T. -/
theorem tStep_frame {s t : State} (h : tStep s = .next t) : t = { s with test := t.test } := by
  rcases tStep_cases s with ⟨-, he⟩ | ⟨w, rest, -, ⟨-, he⟩ | ⟨i, hp, -, he⟩⟩
  · cases he.symm.trans h
    rfl
  · cases he.symm.trans h
    rfl
  · obtain ⟨_, _, rfl⟩ := portT_frame hp (he.symm.trans h)
    rfl

/-- Settles O11: a word of port T decodes to a primitive of that port, and every other agent's transition is a command
of another port, a fetch or a transfer of the line. -/
theorem testPortSharesNothing : Obligations.TestPortSharesNothing := by
  unfold Obligations.TestPortSharesNothing
  intro t s s' h
  refine ⟨fun ht => tStep_frame (by rw [ht] at h; exact h), fun ht => ?_⟩
  cases t with
  | m => exact mStep_test h
  | i f => exact exec_test (by rw [handlerOf_port]; decide) h
  | e f =>
    cases f with
    | rx =>
      cases h
      obtain ⟨_, _, _, _, hf⟩ := eRx_frame s
      rw [hf]
    | tx =>
      cases h
      rfl
  | test => exact absurd rfl ht

theorem enabled_m {s : State} : s.enabled .m = true ↔
    s.cfg.blockOk = true ∧ s.fcause = 0 ∧ (s.loc.busy = true ∨ s.cpc < s.cfg.cmdStream.length) := by
  simp [State.enabled, State.mEnabled]

/-- Settles O38: with FCAUSE nonzero agent M is not enabled, and no other agent writes the record or the micro-state. -/
theorem faultRecordIsFinal : Obligations.FaultRecordIsFinal := by
  unfold Obligations.FaultRecordIsFinal
  intro s s' hc h
  obtain ⟨t, hen, hf⟩ := step_cases h
  cases t with
  | m => exact absurd (enabled_m.mp hen).2.1 hc
  | i f =>
    cases f with
    | rx =>
      obtain ⟨_, _, _, rfl⟩ := rxIsr_frame hf
      simp
    | tx =>
      obtain ⟨_, _, _, _, rfl⟩ := txIsr_frame hf
      simp
  | e f =>
    cases f with
    | rx =>
      cases hf
      obtain ⟨_, _, _, _, he⟩ := eRx_frame (tick s)
      simp [he]
    | tx =>
      cases hf
      simp [eTx]
  | test =>
    rw [tStep_frame hf]
    simp

/-- The words of a command have one or two entries (R74). -/
theorem cmdLength_cases (w0 : Word) : cmdLength w0 = 1 ∨ cmdLength w0 = 2 := by
  unfold cmdLength
  split
  · exact .inr rfl
  · exact .inl rfl

/-- A fetch whose words are all on the stream decides on them with CUR0 and CUR1 loaded. -/
theorem fetch_eq_takeCommand {s : State} {w0 w1 : Word} (h0 : s.cfg.cmdStream[s.cpc]? = some w0)
    (h1 : if cmdLength w0 = 2 then s.cfg.cmdStream[s.cpc + 1]? = some w1 else w1 = s.loc.cur1) :
    fetch s = takeCommand (cmdLength w0) { s with loc := { s.loc with cur0 := w0, cur1 := w1 } } := by
  obtain ⟨hlt, -⟩ := List.getElem?_eq_some_iff.mp h0
  rcases cmdLength_cases w0 with hn | hn
  · have hw : w1 = s.loc.cur1 := by simpa [hn] using h1
    simp only [fetch, h0, hn, hw, if_neg (show ¬ s.cfg.cmdStream.length < s.cpc + 1 by omega)]
    rfl
  · have hw : s.cfg.cmdStream[s.cpc + 1]? = some w1 := by simpa [hn] using h1
    obtain ⟨hlt', -⟩ := List.getElem?_eq_some_iff.mp hw
    simp [fetch, h0, hn, List.getD_eq_getElem?_getD, hw,
      if_neg (show ¬ s.cfg.cmdStream.length < s.cpc + 2 by omega)]

/-- Settles O37: the branches of the fetch, each pinned by its hypotheses. -/
theorem fetchFollowsTheStream : Obligations.FetchFollowsTheStream := by
  unfold Obligations.FetchFollowsTheStream
  intro s hb hc
  have hfire : fire .m s = .next (fetch s) := mStep_idle hb
  rw [hfire]
  refine ⟨?_, ?_, ?_⟩
  · intro hl
    simp [State.enabled, State.mEnabled, hb, hl]
  · intro w0 h0 hl
    simp [fetch, h0, hl, raiseFault, hc, Cause.code]
  · intro w0 w1 h0 h1
    rw [fetch_eq_takeCommand h0 h1]
    refine ⟨fun hd => ?_, fun i hd hi hn => ?_, fun i hd hi => ?_⟩
    · cases he : decode s.cfg.testW .portM w0 w1 with
      | ok i => exact absurd he (hd i)
      | error e => simp [takeCommand, decodeCurrent, he, raiseFault, hc, Cause.code]
    · have hne : i.isInit = false := Bool.eq_false_iff.mpr fun hj => (Instr.isInit_eq_true.mp hj).elim hn
      simp [takeCommand, decodeCurrent, hd, hi, hne, refuse, hc, Cause.code]
    · have hok : ¬ (s.inited = false ∧ i.isInit = false) := by
        rintro ⟨h2, h3⟩
        rcases hi with hi | hi
        · simp [hi] at h2
        · simp [Instr.isInit_eq_true.mpr hi] at h3
      simp [takeCommand, decodeCurrent, hd, hok]

/-- Settles O50: the schedule's head is taken where it is enabled. -/
theorem scheduledTurnRuns : Obligations.ScheduledTurnRuns := by
  unfold Obligations.ScheduledTurnRuns
  intro s t rest hs ht
  simp [step, nextTurn, hs, ht, tick]

/-- Settles O51: the scheduled transition is agent M's, and its step is the command's. -/
theorem stepRunsTheCommandInProgress : Obligations.StepRunsTheCommandInProgress := by
  unfold Obligations.StepRunsTheCommandInProgress
  intro s i rest hs hok hc hb hd
  have hen : s.enabled .m = true := by simp [State.enabled, State.mEnabled, hok, hc, hb]
  rw [scheduledTurnRuns s .m rest hs hen]
  exact mStep_running (running_eq_some.mpr ⟨hb, hd⟩)

/-- Settles O52: the scheduler answers none only where nothing is enabled. -/
theorem stepTakesAnEnabledTurn : Obligations.StepTakesAnEnabledTurn := by
  unfold Obligations.StepTakesAnEnabledTurn
  intro s
  constructor
  · intro s' h
    obtain ⟨t, hen, hf⟩ := step_cases h
    exact ⟨t, (tick_enabled t s).trans hen, hf⟩
  · rintro ⟨t, ht⟩
    rcases nextTurn_cases s with ⟨u, hu, hen⟩ | ⟨-, hno⟩
    · exact ⟨u, hen, by simp only [step, hu]; rfl⟩
    · simp [hno t] at ht

/-- Settles O39: pending is a conjunction of current bits, so a set enable bit shows the flag as it stands. -/
theorem interruptsAreLevelSensitive : Obligations.InterruptsAreLevelSensitive := by
  unfold Obligations.InterruptsAreLevelSensitive
  intro s
  have hen : s.cfg.blockOk = true → ∀ f, s.enabled (.i f) = s.pending f := by
    intro hok f
    simp [State.enabled, hok]
  refine ⟨rfl, rfl, fun hok => ⟨?_, hen hok⟩, ?_, ?_, rfl, rfl⟩
  · simp only [hen hok]
    constructor
    · rintro ⟨f, hf⟩
      cases f with
      | rx => exact .inl hf
      | tx => exact .inr hf
    · rintro (hf | hf)
      · exact ⟨.rx, hf⟩
      · exact ⟨.tx, hf⟩
  · intro f
    simp [State.pending]
  · intro f hf
    cases f <;> simp_all [State.pending, State.ready]

/-- Settles O44: the value of every item that R39 lists, the block's own under an accepted configuration. -/
theorem resetLeaves : Obligations.ResetLeaves := by
  unfold Obligations.ResetLeaves
  intro cfg dataInit progImage hok
  simp [State.resetOf, RB.reset, State.readReg, State.gsp, State.pending, Locals.reset, hok]

end Sys2Proof.Machine

/-! ## Noninterference of the ghost items (R35)

Every operation commutes with clearing the ghosts, since it reads none of them; only RX_ISR and agent E write one. -/

namespace Sys2Proof.Machine

@[simp] theorem withoutGhosts_cfg (s : State) : (withoutGhosts s).cfg = s.cfg := rfl
@[simp] theorem withoutGhosts_rxf (s : State) : (withoutGhosts s).rxf = s.rxf := rfl
@[simp] theorem withoutGhosts_loc (s : State) : (withoutGhosts s).loc = s.loc := rfl

/-- A function moves into an `if` whose branches it commutes with. -/
theorem ite_eq_apply_ite {α β : Type} (g : α → β) {P : Prop} [Decidable P] {x y : α} {u v : β}
    (hx : P → u = g x) (hy : ¬ P → v = g y) : (if P then u else v) = g (if P then x else y) := by
  split_ifs with h
  · exact hx h
  · exact hy h

theorem raiseFault_withoutGhosts (c : Cause) (a : Half) (s : State) :
    raiseFault c a (withoutGhosts s) = withoutGhosts (raiseFault c a s) :=
  ite_eq_apply_ite withoutGhosts (fun _ => rfl) fun _ => rfl

theorem refuse_withoutGhosts (c : Cause) (s : State) :
    refuse c (withoutGhosts s) = withoutGhosts (refuse c s) :=
  ite_eq_apply_ite withoutGhosts (fun _ => rfl) fun _ => rfl

theorem readUntilEnter_withoutGhosts (a n : Half) (e : Byte) (l : Label) (s : State) :
    readUntilEnter a n e l (withoutGhosts s) = withoutGhosts (readUntilEnter a n e l s) :=
  ite_eq_apply_ite withoutGhosts (fun _ => raiseFault_withoutGhosts _ _ s) fun _ => rfl

theorem readUntilPass_withoutGhosts (l m : Label) (s : State) :
    readUntilPass l m (withoutGhosts s) = withoutGhosts (readUntilPass l m s) := by
  simp only [readUntilPass, uncountNewline_eq]
  refine ite_eq_apply_ite withoutGhosts (fun _ => rfl) fun _ =>
    ite_eq_apply_ite withoutGhosts (fun _ => rfl) fun _ => ?_
  simp only [storeAtCnt, memWrite, withoutGhosts_loc, withoutGhosts_cfg, withoutGhosts_rxf]
  by_cases ha : bufferByte s.loc.addr s.loc.cnt > topAddress
  · simp only [ha, ↓reduceIte]
    exact raiseFault_withoutGhosts _ _ { s with
      rxf := (s.rxf.read s.cfg.rxK).2,
      nlcnt := if (s.rxf.read s.cfg.rxK).1 = newline then s.nlcnt - 1 else s.nlcnt,
      loc.c := (s.rxf.read s.cfg.rxK).1 }
  · simp only [ha, ↓reduceIte]
    rfl

theorem txPush_withoutGhosts (s : State) : txPush (withoutGhosts s) = withoutGhosts (txPush s) :=
  ite_eq_apply_ite withoutGhosts (fun _ => rfl) fun _ => rfl

theorem txFetch_withoutGhosts (s : State) : txFetch (withoutGhosts s) = withoutGhosts (txFetch s) := by
  refine ite_eq_apply_ite withoutGhosts (fun _ => rfl) fun _ => ?_
  have hsrc : sourceByte (withoutGhosts s) = sourceByte s := by
    cases hs : s.loc.space <;> simp only [sourceByte, memRead, withoutGhosts_loc, hs] <;> rfl
  rw [hsrc]
  cases sourceByte s with
  | error a => exact raiseFault_withoutGhosts _ _ s
  | ok b => exact ite_eq_apply_ite withoutGhosts (fun _ => rfl) fun _ => rfl

theorem storeAtCnt_withoutGhosts (v : Byte) (s : State) :
    storeAtCnt v (withoutGhosts s) = (storeAtCnt v s).map withoutGhosts :=
  ite_eq_apply_ite (Except.map withoutGhosts) (fun _ => rfl) fun _ => rfl

/-- Clearing the ghosts on either way out of the drain. -/
def exitWithoutGhosts : Except State State → Except State State
  | .error s => .error (withoutGhosts s)
  | .ok s => .ok (withoutGhosts s)

theorem readUntilExit_withoutGhosts (s : State) :
    readUntilExit (withoutGhosts s) = exitWithoutGhosts (readUntilExit s) := by
  cases hm : s.loc.mode with
  | binary =>
    simp only [readUntilExit, withoutGhosts_loc, hm]
    rfl
  | string =>
    simp only [readUntilExit, withoutGhosts_loc, hm, if_true, storeAtCnt_withoutGhosts]
    cases storeAtCnt 0 s with
    | error a => exact congrArg Except.error (raiseFault_withoutGhosts _ _ s)
    | ok u => rfl

theorem takeCommand_withoutGhosts (n : Nat) (s : State) :
    takeCommand n (withoutGhosts s) = withoutGhosts (takeCommand n s) := by
  have hd : decodeCurrent (withoutGhosts s) = decodeCurrent s := rfl
  simp only [takeCommand, hd]
  cases decodeCurrent s with
  | error e => exact raiseFault_withoutGhosts _ _ s
  | ok i => exact ite_eq_apply_ite withoutGhosts (fun _ => refuse_withoutGhosts _ s) fun _ => rfl

theorem fetch_withoutGhosts (s : State) : fetch (withoutGhosts s) = withoutGhosts (fetch s) := by
  have hw : (withoutGhosts s).cfg.cmdStream[(withoutGhosts s).cpc]? = s.cfg.cmdStream[s.cpc]? := rfl
  simp only [fetch, hw]
  cases s.cfg.cmdStream[s.cpc]? with
  | none => rfl
  | some w0 =>
    refine ite_eq_apply_ite withoutGhosts (fun _ => raiseFault_withoutGhosts _ _ { s with loc.cur0 := w0 }) fun _ =>
      ite_eq_apply_ite withoutGhosts (fun _ => ?_) fun _ => ?_
    · exact takeCommand_withoutGhosts _
        { s with loc := { s.loc with cur0 := w0, cur1 := s.cfg.cmdStream.getD (s.cpc + 1) 0 } }
    · exact takeCommand_withoutGhosts _ { s with loc.cur0 := w0 }

/-- A command but RX_ISR, which counts dropped bytes, commutes with clearing the ghosts. -/
theorem exec_withoutGhosts {i : Instr} (hi : i ≠ .rxIsr) (s : State) :
    exec i (withoutGhosts s) = mapNext withoutGhosts (exec i s) := by
  cases i with
  | csDisable f =>
    cases f <;>
    exact ite_eq_apply_ite (mapNext withoutGhosts)
      (fun _ => congrArg Host.Outcome.next (raiseFault_withoutGhosts _ _ s)) fun _ => rfl
  | csRestore f =>
    have hg : (withoutGhosts s).gstk f = s.gstk f := by cases f <;> rfl
    simp only [exec, execCsRestore, hg]
    cases s.gstk f with
    | nil => exact congrArg Host.Outcome.next (raiseFault_withoutGhosts _ _ s)
    | cons p rest => cases f <;> rfl
  | rxAvail =>
    simp only [exec, execRxAvail, withoutGhosts_loc]
    cases s.loc.label <;> rfl
  | rxReadUntil a n e =>
    simp only [exec, execRxReadUntil, withoutGhosts_loc]
    cases s.loc.label with
    | l0 => exact congrArg Host.Outcome.next (readUntilEnter_withoutGhosts ..)
    | l1 => exact congrArg Host.Outcome.next (readUntilPass_withoutGhosts ..)
    | l2 =>
      simp only [readUntilExit_withoutGhosts]
      cases readUntilExit s <;> rfl
    | _ => rfl
  | rxReadExact a n =>
    simp only [exec, execRxReadExact, withoutGhosts_loc]
    cases s.loc.label with
    | l3r0 => exact congrArg Host.Outcome.next (readUntilEnter_withoutGhosts ..)
    | l3r1 => exact congrArg Host.Outcome.next (readUntilPass_withoutGhosts ..)
    | l3r2 =>
      simp only [readUntilExit_withoutGhosts]
      cases readUntilExit s <;> rfl
    | _ => rfl
  | txWrite sp a n =>
    simp only [exec, execTxWrite, withoutGhosts_loc]
    cases s.loc.label with
    | l1 => exact congrArg Host.Outcome.next (txFetch_withoutGhosts s)
    | l2 => exact congrArg Host.Outcome.next (txPush_withoutGhosts s)
    | _ => rfl
  | txIsr => exact ite_eq_apply_ite (mapNext withoutGhosts) (fun _ => rfl) fun _ => rfl
  | init n =>
    exact ite_eq_apply_ite (mapNext withoutGhosts)
      (fun _ => congrArg Host.Outcome.next (refuse_withoutGhosts _ s)) fun _ => rfl
  | rxIsr => exact absurd rfl hi
  | _ => rfl

@[simp] theorem mapNext_withoutGhosts_idem (o : Host.Outcome State Fault Refusal) :
    mapNext withoutGhosts (mapNext withoutGhosts o) = mapNext withoutGhosts o := by cases o <;> rfl

/-- RX_ISR's outcome is the same but for the ghosts. -/
theorem rxIsr_withoutGhosts (s : State) :
    mapNext withoutGhosts (exec .rxIsr (withoutGhosts s)) = mapNext withoutGhosts (exec .rxIsr s) := by
  simp only [exec, execRxIsr, countNewline_eq, withoutGhosts_rxf, withoutGhosts_cfg]
  cases s.rxf.isFull s.cfg.rxK <;> rfl

/-- Every command's outcome is the same but for the ghosts. -/
theorem mapNext_exec_withoutGhosts (i : Instr) (s : State) :
    mapNext withoutGhosts (exec i (withoutGhosts s)) = mapNext withoutGhosts (exec i s) := by
  by_cases hi : i = .rxIsr
  · subst hi
    exact rxIsr_withoutGhosts s
  · rw [exec_withoutGhosts hi, mapNext_withoutGhosts_idem]

theorem eRx_withoutGhosts (s : State) : withoutGhosts (eRx (withoutGhosts s)) = withoutGhosts (eRx s) := by
  have hl : (withoutGhosts s).cfg.lineAt (withoutGhosts s).linPos = s.cfg.lineAt s.linPos := rfl
  have hc : (withoutGhosts s).rxc = s.rxc := rfl
  simp only [eRx, hl, hc]
  cases s.cfg.lineAt s.linPos with
  | none => rfl
  | some b => cases s.rxc <;> rfl

theorem mStep_withoutGhosts (s : State) :
    mapNext withoutGhosts (mStep (withoutGhosts s)) = mapNext withoutGhosts (mStep s) := by
  have hd : decodeCurrent (withoutGhosts s) = decodeCurrent s := rfl
  simp only [mStep, withoutGhosts_loc, hd]
  cases s.loc.busy with
  | false =>
    rw [fetch_withoutGhosts]
    rfl
  | true =>
    cases decodeCurrent s with
    | error e => rfl
    | ok i => exact mapNext_exec_withoutGhosts i s

theorem tStep_withoutGhosts (s : State) :
    mapNext withoutGhosts (tStep (withoutGhosts s)) = mapNext withoutGhosts (tStep s) := by
  have hi : (withoutGhosts s).test.input = s.test.input := rfl
  simp only [tStep, takeTestWord, hi, withoutGhosts_cfg]
  cases s.test.input with
  | nil => rfl
  | cons w rest =>
    dsimp only
    cases decode s.cfg.testW .portT w 0 with
    | error e => rfl
    | ok i => exact mapNext_exec_withoutGhosts i { s with test.input := rest }

theorem fire_withoutGhosts (t : Turn) (s : State) :
    mapNext withoutGhosts (fire t (withoutGhosts s)) = mapNext withoutGhosts (fire t s) := by
  cases t with
  | m => exact mStep_withoutGhosts s
  | i f => exact mapNext_exec_withoutGhosts (handlerOf f) s
  | e f =>
    cases f with
    | rx => exact congrArg Host.Outcome.next (eRx_withoutGhosts s)
    | tx => rfl
  | test => exact tStep_withoutGhosts s

theorem enabled_withoutGhosts (s : State) : (withoutGhosts s).enabled = s.enabled := by
  funext t
  cases t with
  | i f => cases f <;> rfl
  | e f => cases f <;> rfl
  | _ => rfl

theorem nextTurn_withoutGhosts (s : State) : nextTurn (withoutGhosts s) = nextTurn s := by
  simp only [nextTurn, State.enabledTurns, enabled_withoutGhosts]
  rfl

/-- A step's outcome is the same but for the ghosts where they are cleared before it. -/
theorem step_withoutGhosts (s : State) :
    mapNext withoutGhosts (step (withoutGhosts s)) = mapNext withoutGhosts (step s) := by
  simp only [step, nextTurn_withoutGhosts]
  cases nextTurn s with
  | none => rfl
  | some t => exact fire_withoutGhosts t (tick s)

/-- Settles O42. -/
theorem ghostsAreNeverRead : Obligations.GhostsAreNeverRead := by
  unfold Obligations.GhostsAreNeverRead
  intro s t h
  rw [← step_withoutGhosts s, h, step_withoutGhosts t]

end Sys2Proof.Machine

/-! ## The invariant, in two parts

`Stored` is what the invariant says of the registers, the FIFOs and the memories; `Control` is what it says of the
command in progress. A step proves each part for its own fields and takes the rest from the state before. -/

namespace Sys2Proof.Machine

/-- The part of the invariant that does not look at the command in progress. -/
structure Stored (s : State) : Prop where
  rxf : RB.Wf s.cfg.rxK s.rxf
  txf : RB.Wf s.cfg.txK s.txf
  testRb : RB.Wf s.cfg.testK s.test.rb
  testFits : ElementsFit s.cfg.testW s.test.rb
  newlines : NewlinesCounted s
  data : Memory.wf s.data = true
  prog : Memory.wf s.prog = true
  depthRx : s.gstkRx.length ≤ s.cfg.gdepth
  depthTx : s.gstkTx.length ≤ s.cfg.gdepth
  cpc : s.cpc ≤ s.cfg.cmdStream.length
  quiet : QuietBeforeInit s
  record : s.fcause = 0 → s.fword = 0 ∧ s.faddr = 0 ∧ s.refused = false

/-- The part of the invariant about the command in progress. -/
structure Control (s : State) : Prop where
  placed : WellPlaced s
  guards : GuardsHold s
  exactRead : ExactReadCovered s

theorem invariant_iff {s : State} : Invariant s ↔ Stored s ∧ Control s :=
  ⟨fun h => ⟨{ h with }, { h with }⟩, fun ⟨h, g⟩ => { h, g with }⟩

theorem Invariant.stored {s : State} (h : Invariant s) : Stored s := (invariant_iff.mp h).1

theorem Invariant.control {s : State} (h : Invariant s) : Control s := (invariant_iff.mp h).2

/-! ### The command in progress -/

/-- The only command that runs before INIT is INIT. -/
theorem Control.inited {s : State} {i : Instr} (h : Control s) (hr : running s = some i) (hi : i.isInit = false) :
    s.inited = true := by
  obtain ⟨hb, hd⟩ := running_eq_some.mp hr
  obtain ⟨j, hj, -, hin⟩ := h.placed hb
  cases hd.symm.trans hj
  simpa [hi] using hin

theorem exactReadCovered_of_fault {s : State} (hc : s.fcause ≠ 0) : ExactReadCovered s :=
  fun _ _ h0 => absurd h0 hc

theorem exactReadCovered_of_ne {s : State} {i : Instr} (hr : running s = some i) (hi : ∀ a n, i ≠ .rxReadExact a n) :
    ExactReadCovered s :=
  fun a n _ h => absurd (Option.some.inj (hr.symm.trans h)) (hi a n)

/-- The first step of a command has nothing to cover. -/
theorem exactReadCovered_start {s : State} (hl : s.loc.label = .l0) : ExactReadCovered s := by
  intro a n _ _
  simp [hl]

/-- At a command boundary nothing is claimed of agent M. -/
theorem Control.idle {s : State} (hb : s.loc.busy = false) : Control s where
  placed h := by simp [hb] at h
  guards i f h := by simp [running_idle hb] at h
  exactRead a n _ h := by simp [running_idle hb] at h

/-- Agent M at a label of its command with the guards of that label held. -/
theorem Control.of_running {s : State} {i : Instr} (hr : running s = some i)
    (hl : hasLabel i s.loc.label = true) (hi : s.inited = true ∨ i.isInit = true)
    (hg : ∀ f, guarded f i s.loc.label = true → s.ie f = false) (hx : ExactReadCovered s) : Control s where
  placed _ := ⟨i, (running_eq_some.mp hr).2, hl, hi⟩
  guards j f hj hf := by
    cases hr.symm.trans hj
    exact hg f hf
  exactRead := hx

/-- The receive commands hold a guard on the receive source only. -/
theorem guarded_rx_only {i : Instr} {f : Source} {l : Label} (h : guarded f i l = true)
    (hi : ∀ sp a n, i ≠ .txWrite sp a n) : f = .rx := by
  cases f with
  | rx => rfl
  | tx =>
    cases i with
    | txWrite sp a n => exact absurd rfl (hi sp a n)
    | _ => cases h

/-- TX_WRITE holds a guard on the transmit source only, at L1, L2 and L5. -/
theorem guarded_txWrite {sp : Space} {a n : Half} {f : Source} {l : Label} :
    guarded f (.txWrite sp a n) l = true ↔ f = .tx ∧ (l = .l1 ∨ l = .l2 ∨ l = .l5) := by
  cases f <;> cases l <;> simp [guarded]

/-- Agent M at a label of RX_AVAIL or RX_READ_UNTIL, with RXIE = 0 between the guard's enter and exit. -/
theorem Control.ofReceive {s : State} {i : Instr} (hr : running s = some i) (hin : s.inited = true)
    (hl : hasLabel i s.loc.label = true) (hw : ∀ sp a n, i ≠ .txWrite sp a n)
    (hx : ∀ a n, i ≠ .rxReadExact a n) (hie : s.rxie = false) : Control s :=
  .of_running hr hl (.inl hin) (fun f hf => by rw [guarded_rx_only hf hw]; exact hie) (exactReadCovered_of_ne hr hx)

/-- Agent M at a label of RX_READ_EXACT, with RXIE = 0 inside either of its guards and the read covered. -/
theorem Control.ofExact {s : State} {a n : Half} (hr : running s = some (.rxReadExact a n)) (hin : s.inited = true)
    (hl : hasLabel (.rxReadExact a n) s.loc.label = true)
    (hie : guarded .rx (.rxReadExact a n) s.loc.label = true → s.rxie = false)
    (hx : (s.loc.label ≠ .l0 → s.loc.addr = a ∧ s.loc.len = n) ∧
      (s.loc.label = .l2 → s.loc.cnt ≤ s.rxf.count s.cfg.rxK) ∧
      (s.loc.label = .l3r0 → s.loc.len.toNat ≤ s.rxf.count s.cfg.rxK) ∧
      (s.loc.label = .l3r1 → s.loc.mode = .binary ∧ s.loc.lim = s.loc.len ∧ s.loc.cnt ≤ s.loc.len.toNat ∧
        s.loc.len.toNat ≤ s.loc.cnt + s.rxf.count s.cfg.rxK) ∧
      (s.loc.label = .l3r2 → s.loc.mode = .binary ∧ s.loc.cnt = s.loc.len.toNat)) : Control s := by
  refine .of_running hr hl (.inl hin) (fun f hf => ?_) (fun b m _ hr' => ?_)
  · obtain rfl := guarded_rx_only hf (by simp)
    exact hie hf
  · cases hr.symm.trans hr'
    exact hx

/-- Agent M at a label of TX_WRITE, with TXIE = 0 at L1, L2 and L5. -/
theorem Control.ofWrite {s : State} {sp : Space} {a n : Half} (hr : running s = some (.txWrite sp a n))
    (hin : s.inited = true) (hl : hasLabel (.txWrite sp a n) s.loc.label = true)
    (hie : s.loc.label = .l1 ∨ s.loc.label = .l2 ∨ s.loc.label = .l5 → s.txie = false) : Control s :=
  .of_running hr hl (.inl hin)
    (fun f hf => by obtain ⟨rfl, hll⟩ := guarded_txWrite.mp hf; exact hie hll)
    (exactReadCovered_of_ne hr (by simp))

/-! ### Faults and refusals -/

theorem Stored.afterFault {s : State} (h : Stored s) (c : Cause) (a : Half) : Stored (raiseFault c a s) := by
  rcases raiseFault_cases c a s with ⟨-, e⟩ | ⟨-, e⟩ <;> rw [e]
  · exact { h with record := fun h0 => absurd h0 (Cause.code_ne_zero c) }
  · exact h

theorem Stored.afterRefusal {s : State} (h : Stored s) (c : Cause) : Stored (refuse c s) := by
  rcases refuse_cases c s with ⟨-, e⟩ | ⟨h0, e⟩ <;> rw [e]
  · exact { h with record := fun h0 => absurd h0 (Cause.code_ne_zero c) }
  · exact { h with record := fun h1 => absurd h1 h0 }

/-- A fault leaves agent M where it stands and excuses the exact read. -/
theorem Invariant.afterFault {s : State} (h : Stored s) (hp : WellPlaced s) (hg : GuardsHold s) (c : Cause) (a : Half) :
    Invariant (raiseFault c a s) := by
  have hx : ExactReadCovered (raiseFault c a s) := exactReadCovered_of_fault (raiseFault_stops c a s)
  refine invariant_iff.mpr ⟨h.afterFault c a, ?_, ?_, hx⟩
  · rcases raiseFault_cases c a s with ⟨-, e⟩ | ⟨-, e⟩ <;> rw [e] <;> exact hp
  · rcases raiseFault_cases c a s with ⟨-, e⟩ | ⟨-, e⟩ <;> rw [e] <;> exact hg

/-- A refusal leaves agent M where it stands and excuses the exact read. -/
theorem Invariant.afterRefusal {s : State} (h : Stored s) (hp : WellPlaced s) (hg : GuardsHold s) (c : Cause) :
    Invariant (refuse c s) := by
  have hx : ExactReadCovered (refuse c s) := exactReadCovered_of_fault (refuse_stops c s)
  refine invariant_iff.mpr ⟨h.afterRefusal c, ?_, ?_, hx⟩
  · rcases refuse_cases c s with ⟨-, e⟩ | ⟨-, e⟩ <;> rw [e] <;> exact hp
  · rcases refuse_cases c s with ⟨-, e⟩ | ⟨-, e⟩ <;> rw [e] <;> exact hg

/-! ### The newline count -/

theorem quiet_of_inited {s : State} (h : s.inited = true) : QuietBeforeInit s := fun h0 => by simp [h] at h0

/-- NLCNT never exceeds the bytes buffered. -/
theorem newlines_le_count {s : State} (hn : NewlinesCounted s) : s.nlcnt.toNat ≤ s.rxf.count s.cfg.rxK := by
  rw [hn, ← RB.contents_length]
  exact List.count_le_length

/-- A byte pushed on RXF is counted if it is a newline, and the eight bits of NLCNT suffice (R37). -/
theorem newlinesCounted_push {s : State} (h : Stored s) (hk : s.cfg.rxK ≤ 8)
    (hf : s.rxf.isFull s.cfg.rxK = false) (b : Byte) :
    (if b = newline then s.nlcnt + 1 else s.nlcnt).toNat =
      ((s.rxf.write s.cfg.rxK b).2.contents s.cfg.rxK).count newline := by
  have hlt : s.nlcnt.toNat + 1 < 2 ^ 8 := by
    have h1 := newlines_le_count h.newlines
    have h2 := RB.count_lt h.rxf
    have h3 : s.rxf.count s.cfg.rxK + 1 ≠ 2 ^ s.cfg.rxK := by rw [Ne, ← RB.isFull_iff h.rxf, hf]; simp
    have h4 : 2 ^ s.cfg.rxK ≤ 2 ^ 8 := Nat.pow_le_pow_right (by decide) hk
    omega
  rw [RB.contents_write h.rxf hf, List.count_append, ← h.newlines, List.count_singleton]
  split_ifs with h1 h2 h2
  · rw [BitVec.toNat_add_of_lt (by simpa using hlt)]
    rfl
  · simp [h1] at h2
  · simp at h2; exact absurd h2 h1
  · rfl

/-- A byte taken from RXF is uncounted if it is a newline. -/
theorem newlinesCounted_take {s : State} (h : Stored s) (he : s.rxf.isEmpty = false) :
    (if (s.rxf.read s.cfg.rxK).1 = newline then s.nlcnt - 1 else s.nlcnt).toNat =
      ((s.rxf.read s.cfg.rxK).2.contents s.cfg.rxK).count newline := by
  have hn := h.newlines
  rw [NewlinesCounted, RB.contents_read h.rxf he, List.count_cons] at hn
  split_ifs with h1
  · simp only [h1, beq_self_eq_true, if_true] at hn
    rw [BitVec.toNat_sub_of_le (by rw [BitVec.le_def, hn]; simp), hn]
    simp
  · rw [hn, if_neg (by simpa using h1), Nat.add_zero]

/-! ### The shared steps of the receive commands -/

theorem Stored.takeByte {s : State} (h : Stored s) (hin : s.inited = true) (he : s.rxf.isEmpty = false) (lo : Locals) :
    Stored { s with
      rxf := (s.rxf.read s.cfg.rxK).2,
      nlcnt := if (s.rxf.read s.cfg.rxK).1 = newline then s.nlcnt - 1 else s.nlcnt,
      loc := lo } :=
  { h with
    rxf := RB.read_wf h.rxf
    newlines := newlinesCounted_take h he
    quiet := quiet_of_inited hin }

theorem Stored.readUntilEnter {s : State} (h : Stored s) (hin : s.inited = true) (a n : Half) (e : Byte) (l : Label) :
    Stored (readUntilEnter a n e l s) := by
  rcases readUntilEnter_cases a n e l s with ⟨-, -, he⟩ | ⟨-, he⟩ <;> rw [he]
  · exact h.afterFault _ _
  · exact { h with quiet := quiet_of_inited hin }

theorem Stored.readUntilPass {s : State} (h : Stored s) (hin : s.inited = true) (l m : Label) :
    Stored (readUntilPass l m s) := by
  rcases readUntilPass_cases l m s with ⟨-, he⟩ | ⟨-, hne, ⟨-, -, he⟩ | ⟨-, ha, he⟩ | ⟨-, -, he⟩⟩ <;> rw [he]
  · exact { h with }
  · exact h.takeByte hin hne _
  · exact { h.takeByte hin hne s.loc with data := Memory.wfFrom_write h.data (Nat.zero_le _) ha _ }
  · exact (h.takeByte hin hne _).afterFault _ _

theorem Stored.readUntilExit {s u : State} (h : Stored s) (hin : s.inited = true) (he : readUntilExit s = .ok u) :
    Stored u := by
  rcases readUntilExit_cases s with ⟨-, e⟩ | ⟨-, ha, e⟩ | ⟨-, -, e⟩ <;> cases e.symm.trans he
  · exact { h with quiet := quiet_of_inited hin }
  · exact { h with
      data := Memory.wfFrom_write h.data (Nat.zero_le _) ha _
      quiet := quiet_of_inited hin }

end Sys2Proof.Machine

/-! ## Every transition keeps the invariant -/

namespace Sys2Proof.Machine

/-! ### The agents other than M -/

theorem Invariant.tick {s : State} (h : Invariant s) : Invariant (tick s) := { h with }

theorem Invariant.eRx {s : State} (h : Invariant s) : Invariant (eRx s) := by
  obtain ⟨_, _, _, _, e⟩ := eRx_frame s
  rw [e]
  exact { h with }

theorem Invariant.eTx {s : State} (h : Invariant s) : Invariant (eTx s) := { h with }

/-- RX_ISR only adds bytes to RXF, so an exact read stays covered. -/
theorem Invariant.rxIsr {s t : State} (h : Invariant s) (hk : s.cfg.rxK ≤ 8) (hin : s.inited = true)
    (he : exec .rxIsr s = .next t) : Invariant t := by
  rcases execRxIsr_cases he with ⟨-, rfl⟩ | ⟨hf, rfl⟩
  · exact { h with }
  · have hcount := RB.count_write h.rxf hf s.rxdr
    exact { h with
      rxf := RB.write_wf h.rxf s.rxdr
      newlines := newlinesCounted_push h.stored hk hf s.rxdr
      quiet := quiet_of_inited hin
      exactRead := by
        intro a n h0 hr
        obtain ⟨h1, h2, h3, h4, h5⟩ := h.exactRead a n h0 hr
        refine ⟨h1, fun hl => ?_, fun hl => ?_, fun hl => ?_, h5⟩
        · exact (h2 hl).trans (by simp only [hcount]; omega)
        · exact (h3 hl).trans (by simp only [hcount]; omega)
        · obtain ⟨hm, hlim, hc, hlen⟩ := h4 hl
          exact ⟨hm, hlim, hc, hlen.trans (by simp only [hcount]; omega)⟩ }

theorem Invariant.txIsr {s t : State} (h : Invariant s) (hin : s.inited = true)
    (he : exec .txIsr s = .next t) : Invariant t := by
  rcases execTxIsr_cases he with ⟨-, rfl⟩ | ⟨-, rfl⟩
  · exact { h with
      guards := by
        intro i f hr hg
        cases f with
        | rx => exact h.guards i .rx hr hg
        | tx => rfl
      quiet := quiet_of_inited hin }
  · exact { h with
      txf := RB.read_wf h.txf
      quiet := quiet_of_inited hin }

/-- The element of RB_WRITE is a W-bit value (R76). -/
theorem elementOf_lt (W : Nat) (v : Half) : (elementOf W v).toNat < 2 ^ W := by
  rw [elementOf, BitVec.toNat_ofNat]
  exact (Nat.mod_le _ _).trans_lt (Nat.mod_lt _ (Nat.two_pow_pos W))

theorem elementsFit_write {W k : Nat} {f : RB 16} {v : Half} (h : ElementsFit W f) (hv : v.toNat < 2 ^ W) :
    ElementsFit W (f.write k v).2 := by
  rw [elementsFit_iff] at h ⊢
  unfold RB.write
  split
  · exact h
  · intro x hx
    rcases List.mem_or_eq_of_mem_set hx with hx | rfl
    · exact h x hx
    · exact hv

theorem elementsFit_read {W k : Nat} {f : RB 16} (h : ElementsFit W f) : ElementsFit W (f.read k).2 := by
  unfold RB.read
  split <;> exact h

/-- A primitive of port T keeps the masked indices and the element width. -/
theorem Invariant.portT {i : Instr} (hp : i.port = .portT) {s t : State} (h : Invariant s)
    (he : exec i s = .next t) : Invariant t := by
  cases i with
  | rbWrite v =>
    cases he
    exact { h with
      testRb := RB.write_wf h.testRb _
      testFits := elementsFit_write h.testFits (elementOf_lt _ v) }
  | rbRead =>
    cases he
    exact { h with
      testRb := RB.read_wf h.testRb
      testFits := elementsFit_read h.testFits }
  | rbCount => cases he; exact { h with }
  | rbIsfull => cases he; exact { h with }
  | rbIsempty => cases he; exact { h with }
  | _ => cases hp

theorem Invariant.tStep {s t : State} (h : Invariant s) (he : tStep s = .next t) : Invariant t := by
  rcases tStep_cases s with ⟨-, e⟩ | ⟨w, rest, -, ⟨-, e⟩ | ⟨i, hp, -, e⟩⟩
  · cases e.symm.trans he
    exact h
  · cases e.symm.trans he
    exact { h with }
  · exact Invariant.portT hp (s := { s with test.input := rest }) { h with } (e.symm.trans he)

/-! ### Agent M's fetch -/

/-- Every command of port M has the label L0. -/
theorem hasLabel_l0 {i : Instr} (hp : i.port = .portM) : hasLabel i .l0 = true := by
  cases i <;> simp_all [hasLabel, Instr.port]

/-- No guard is held at L0. -/
theorem guarded_l0 (f : Source) (i : Instr) : guarded f i .l0 = false := by
  cases f <;> cases i <;> rfl

/-- At a command boundary the micro-state is free to change. -/
theorem Invariant.relocate {s : State} (h : Invariant s) {lo : Locals} (hb : lo.busy = false) :
    Invariant { s with loc := lo } := invariant_iff.mpr ⟨{ h.stored with }, .idle hb⟩

theorem Invariant.fetch {s : State} (h : Invariant s) (hb : s.loc.busy = false) : Invariant (fetch s) := by
  rcases fetch_cases s with ⟨-, e⟩ | ⟨w0, -, ⟨-, e⟩ | ⟨hn, w1, -, ⟨-, e⟩ | ⟨i, hd, ⟨-, -, e⟩ | ⟨hi, e⟩⟩⟩⟩ <;> rw [e]
  · exact h
  · have h1 : Invariant { s with loc.cur0 := w0 } := h.relocate hb
    exact .afterFault h1.stored h1.placed h1.guards _ _
  · have h1 : Invariant { s with loc := { s.loc with cur0 := w0, cur1 := w1 } } := h.relocate hb
    exact .afterFault h1.stored h1.placed h1.guards _ _
  · have h1 : Invariant { s with loc := { s.loc with cur0 := w0, cur1 := w1 } } := h.relocate hb
    exact .afterRefusal h1.stored h1.placed h1.guards _
  · refine invariant_iff.mpr ⟨{ h.stored with cpc := hn }, .of_running (i := i) ?_ ?_ hi ?_ ?_⟩
    · exact running_eq_some.mpr ⟨rfl, hd⟩
    · exact hasLabel_l0 (decode_port hd)
    · intro f hf
      exact absurd hf (by simp [guarded_l0])
    · exact exactReadCovered_start rfl

/-! ### Agent M's commands -/

/-- A handler runs under an accepted configuration and after INIT. -/
theorem enabled_i {s : State} {f : Source} (h : s.enabled (.i f) = true) :
    s.cfg.blockOk = true ∧ s.inited = true := by
  simp only [State.enabled, State.pending, Bool.and_eq_true] at h
  exact ⟨h.1, h.2.1.1⟩

theorem rxK_le_of_blockOk {c : Config} (h : c.blockOk = true) : c.rxK ≤ 8 := by
  simp only [Config.blockOk, Bool.and_eq_true, decide_eq_true_eq] at h
  omega

section Command

variable {s t : State} (h : Invariant s)
include h

theorem Invariant.csDisable {f : Source} (hr : running s = some (.csDisable f)) (he : exec (.csDisable f) s = .next t) :
    Invariant t := by
  have hin := h.control.inited hr rfl
  rcases execCsDisable_cases he with ⟨-, rfl⟩ | ⟨hd, rfl⟩
  · exact .afterFault h.stored h.placed h.guards _ _
  · cases f with
    | rx =>
      exact invariant_iff.mpr ⟨{ h.stored with
        depthRx := Nat.lt_of_le_of_ne h.depthRx hd
        quiet := quiet_of_inited hin }, .idle rfl⟩
    | tx =>
      exact invariant_iff.mpr ⟨{ h.stored with
        depthTx := Nat.lt_of_le_of_ne h.depthTx hd
        quiet := quiet_of_inited hin }, .idle rfl⟩

theorem Invariant.csRestore {f : Source} (hr : running s = some (.csRestore f)) (he : exec (.csRestore f) s = .next t) :
    Invariant t := by
  have hin := h.control.inited hr rfl
  rcases execCsRestore_cases he with ⟨-, rfl⟩ | ⟨p, rest, hg, rfl⟩
  · exact .afterFault h.stored h.placed h.guards _ _
  · cases f with
    | rx =>
      have hlen : s.gstkRx.length = rest.length + 1 := congrArg List.length hg
      exact invariant_iff.mpr ⟨{ h.stored with
        depthRx := by have := h.depthRx; exact (by omega : rest.length ≤ s.cfg.gdepth)
        quiet := quiet_of_inited hin }, .idle rfl⟩
    | tx =>
      have hlen : s.gstkTx.length = rest.length + 1 := congrArg List.length hg
      exact invariant_iff.mpr ⟨{ h.stored with
        depthTx := by have := h.depthTx; exact (by omega : rest.length ≤ s.cfg.gdepth)
        quiet := quiet_of_inited hin }, .idle rfl⟩

theorem Invariant.rxAvail (hr : running s = some .rxAvail) (he : exec .rxAvail s = .next t) : Invariant t := by
  have hin := h.control.inited hr rfl
  rcases execRxAvail_cases he with ⟨hl, rfl⟩ | ⟨hl, rfl⟩ | ⟨hl, rfl⟩
  · exact invariant_iff.mpr ⟨{ h.stored with quiet := quiet_of_inited hin },
      .ofReceive (i := .rxAvail) hr hin rfl (by simp) (by simp) rfl⟩
  · have hie : s.rxie = false := h.guards _ .rx hr (by rw [hl]; rfl)
    exact invariant_iff.mpr ⟨{ h.stored with },
      .ofReceive (i := .rxAvail) hr hin rfl (by simp) (by simp) hie⟩
  · exact invariant_iff.mpr ⟨{ h.stored with quiet := quiet_of_inited hin }, .idle rfl⟩

theorem Invariant.init {n : Half} (he : exec (.init n) s = .next t) : Invariant t := by
  rcases execInit_cases he with ⟨-, rfl⟩ | ⟨-, rfl⟩
  · exact .afterRefusal h.stored h.placed h.guards _
  · exact invariant_iff.mpr ⟨{ h.stored with quiet := quiet_of_inited rfl }, .idle rfl⟩

/-- A byte taken from RXF whose store faults is lost, and agent M stops where it stands. -/
theorem Invariant.loseByte (hin : s.inited = true) (he : s.rxf.isEmpty = false) (c : Cause) (a : Half) :
    Invariant (raiseFault c a { s with
      rxf := (s.rxf.read s.cfg.rxK).2,
      nlcnt := if (s.rxf.read s.cfg.rxK).1 = newline then s.nlcnt - 1 else s.nlcnt,
      loc.c := (s.rxf.read s.cfg.rxK).1 }) := by
  refine .afterFault (h.stored.takeByte hin he _) ?_ ?_ c a
  · exact h.placed
  · exact h.guards

theorem Invariant.rxReadUntil {a n : Half} {e : Byte} (hr : running s = some (.rxReadUntil a n e))
    (he : exec (.rxReadUntil a n e) s = .next t) : Invariant t := by
  have hin := h.control.inited hr rfl
  rcases execRxReadUntil_cases he with ⟨hl, rfl⟩ | ⟨hl, rfl⟩ | ⟨hl, hx | ⟨u, hx, rfl⟩⟩
  · have hst := h.stored.readUntilEnter hin a n e .l1
    rcases readUntilEnter_cases a n e .l1 s with ⟨-, -, hq⟩ | ⟨-, hq⟩ <;> rw [hq] at hst ⊢
    · exact .afterFault h.stored h.placed h.guards _ _
    · exact invariant_iff.mpr ⟨hst, .ofReceive (i := .rxReadUntil a n e) hr hin rfl (by simp) (by simp) rfl⟩
  · have hie : s.rxie = false := h.guards _ .rx hr (by rw [hl]; rfl)
    have hst := h.stored.readUntilPass hin .l1 .l2
    rcases readUntilPass_cases .l1 .l2 s with ⟨-, hq⟩ | ⟨-, hne, ⟨-, -, hq⟩ | ⟨-, -, hq⟩ | ⟨-, -, hq⟩⟩ <;>
      rw [hq] at hst ⊢
    case inr.inl.inr.inr.inr => exact h.loseByte hin hne _ _
    all_goals exact invariant_iff.mpr ⟨hst, .ofReceive (i := .rxReadUntil a n e) hr hin rfl (by simp) (by simp) hie⟩
  · obtain ⟨_, _, hq⟩ := readUntilExit_error hx
    rw [hq]
    exact .afterFault h.stored h.placed h.guards _ _
  · exact invariant_iff.mpr ⟨{ h.stored.readUntilExit hin hx with }, .idle rfl⟩

/-- L2 of RX_READ_EXACT goes back to the poll, or on to the read with the bytes it needs buffered. -/
theorem Invariant.exactPolled {a n : Half} (hr : running s = some (.rxReadExact a n)) (hl : s.loc.label = .l2)
    (hc : s.fcause = 0) :
    Invariant { s with rxie := s.loc.p2, loc.label := if s.loc.cnt < s.loc.len.toNat then .l0 else .l3r0 } := by
  have hin := h.control.inited hr rfl
  obtain ⟨hops, hcnt, -, -, -⟩ := h.exactRead a n hc hr
  have hst : Stored { s with rxie := s.loc.p2, loc.label := if s.loc.cnt < s.loc.len.toNat then .l0 else .l3r0 } :=
    { h.stored with quiet := quiet_of_inited hin }
  refine invariant_iff.mpr ⟨hst, ?_⟩
  split_ifs with hlt
  · exact .ofExact (a := a) (n := n) hr hin rfl nofun
      ⟨fun h0 => absurd rfl h0, nofun, nofun, nofun, nofun⟩
  · have hn := hcnt hl
    exact .ofExact (a := a) (n := n) hr hin rfl nofun
      ⟨fun _ => hops (by simp [hl]), nofun, fun _ => (Nat.not_lt.mp hlt).trans hn, nofun, nofun⟩

/-- L0 of the exact read: binary mode with the limit at n, and no fault. -/
theorem Invariant.exactEntered {a n : Half} (hr : running s = some (.rxReadExact a n)) (hl : s.loc.label = .l3r0)
    (hc : s.fcause = 0) : Invariant (readUntilEnter s.loc.addr s.loc.len 0 .l3r1 s) := by
  have hin := h.control.inited hr rfl
  obtain ⟨hops, -, hlen, -, -⟩ := h.exactRead a n hc hr
  have hst := h.stored.readUntilEnter hin s.loc.addr s.loc.len 0 .l3r1
  rcases readUntilEnter_cases s.loc.addr s.loc.len 0 .l3r1 s with ⟨h0, -, -⟩ | ⟨-, hq⟩
  · exact absurd rfl h0
  · rw [hq] at hst ⊢
    refine invariant_iff.mpr ⟨hst, .ofExact (a := a) (n := n) hr hin rfl (fun _ => rfl) ?_⟩
    exact ⟨fun _ => hops (by simp [hl]), nofun, nofun,
      fun _ => ⟨rfl, rfl, Nat.zero_le _, by simpa using hlen hl⟩, nofun⟩

/-- One pass of the exact read: it ends with CNT = LEN, or takes one of the bytes it has covered. -/
theorem Invariant.exactPass {a n : Half} (hr : running s = some (.rxReadExact a n)) (hl : s.loc.label = .l3r1)
    (hc : s.fcause = 0) : Invariant (readUntilPass .l3r1 .l3r2 s) := by
  have hin := h.control.inited hr rfl
  have hie : s.rxie = false := h.guards _ .rx hr (by rw [hl]; rfl)
  obtain ⟨hops, -, -, hcov, -⟩ := h.exactRead a n hc hr
  obtain ⟨hm, hlim, hle, hlen⟩ := hcov hl
  have hst := h.stored.readUntilPass hin .l3r1 .l3r2
  rcases readUntilPass_cases .l3r1 .l3r2 s with ⟨hend, hq⟩ | ⟨hne, hb, ⟨hs, -, -⟩ | ⟨-, -, hq⟩ | ⟨-, -, hq⟩⟩
  · rw [hq] at hst ⊢
    refine invariant_iff.mpr ⟨hst, .ofExact (a := a) (n := n) hr hin rfl (fun _ => hie) ?_⟩
    have hcnt : s.loc.cnt = s.loc.len.toNat := by
      rcases hend with hend | hend
      · rw [hend, hlim]
      · have := (RB.isEmpty_iff h.rxf).mp hend
        omega
    exact ⟨fun _ => hops (by simp [hl]), nofun, nofun, nofun, fun _ => ⟨hm, hcnt⟩⟩
  · exact absurd (hs.symm.trans hm) nofun
  · rw [hq] at hst ⊢
    refine invariant_iff.mpr ⟨hst, .ofExact (a := a) (n := n) hr hin rfl (fun _ => hie) ?_⟩
    have hcount := RB.count_read h.rxf hb
    have hlt : s.loc.cnt < s.loc.len.toNat := by rw [hlim] at hne; omega
    have hmod : (s.loc.cnt + 1) % 2 ^ 16 = s.loc.cnt + 1 := Nat.mod_eq_of_lt (by have := s.loc.len.isLt; omega)
    refine ⟨fun _ => hops (by simp [hl]), nofun, nofun, fun _ => ⟨hm, hlim, ?_, ?_⟩, nofun⟩
    · simp only [hmod]
      exact hlt
    · simp only [hmod]
      omega
  · rw [hq]
    exact h.loseByte hin hb _ _

theorem Invariant.rxReadExact {a n : Half} (hr : running s = some (.rxReadExact a n)) (hc : s.fcause = 0)
    (he : exec (.rxReadExact a n) s = .next t) : Invariant t := by
  have hin := h.control.inited hr rfl
  rcases execRxReadExact_cases he with
    ⟨hl, rfl⟩ | ⟨hl, rfl⟩ | ⟨hl, rfl⟩ | ⟨hl, rfl⟩ | ⟨hl, rfl⟩ | ⟨hl, hx | ⟨u, hx, rfl⟩⟩
  · refine invariant_iff.mpr ⟨{ h.stored with quiet := quiet_of_inited hin },
      .ofExact (a := a) (n := n) hr hin rfl (fun _ => rfl) ?_⟩
    exact ⟨fun _ => ⟨rfl, rfl⟩, nofun, nofun, nofun, nofun⟩
  · have hie : s.rxie = false := h.guards _ .rx hr (by rw [hl]; rfl)
    obtain ⟨hops, -⟩ := h.exactRead a n hc hr
    refine invariant_iff.mpr ⟨{ h.stored with },
      .ofExact (a := a) (n := n) hr hin rfl (fun _ => hie) ?_⟩
    exact ⟨fun _ => hops (by simp [hl]), fun _ => Nat.le_refl _, nofun, nofun, nofun⟩
  · exact h.exactPolled hr hl hc
  · exact h.exactEntered hr hl hc
  · exact h.exactPass hr hl hc
  · obtain ⟨_, _, hq⟩ := readUntilExit_error hx
    rw [hq]
    exact .afterFault h.stored h.placed h.guards _ _
  · exact invariant_iff.mpr ⟨{ h.stored.readUntilExit hin hx with }, .idle rfl⟩

theorem Invariant.txWrite {sp : Space} {a n : Half} (hr : running s = some (.txWrite sp a n))
    (he : exec (.txWrite sp a n) s = .next t) : Invariant t := by
  have hin := h.control.inited hr rfl
  have hie (hl : s.loc.label = .l1 ∨ s.loc.label = .l2 ∨ s.loc.label = .l5) : s.txie = false :=
    h.guards _ .tx hr (guarded_txWrite.mpr ⟨rfl, hl⟩)
  rcases execTxWrite_cases he with ⟨hl, rfl⟩ | ⟨hl, rfl⟩ | ⟨hl, rfl⟩ | ⟨hl, rfl⟩ | ⟨hl, rfl⟩ | ⟨hl, rfl⟩
  · exact invariant_iff.mpr ⟨{ h.stored with quiet := quiet_of_inited hin },
      .ofWrite (sp := sp) (a := a) (n := n) hr hin rfl fun _ => rfl⟩
  · rcases txFetch_cases s with ⟨-, -, hq⟩ | ⟨-, ⟨-, hq⟩ | ⟨-, hq⟩⟩ <;> rw [hq]
    · exact invariant_iff.mpr ⟨{ h.stored with },
        .ofWrite (sp := sp) (a := a) (n := n) hr hin rfl fun _ => hie (.inl hl)⟩
    · refine invariant_iff.mpr ⟨{ h.stored with },
        .ofWrite (sp := sp) (a := a) (n := n) hr hin ?_ fun _ => hie (.inl hl)⟩
      dsimp only
      split_ifs <;> rfl
    · exact .afterFault h.stored h.placed h.guards _ _
  · rcases txPush_cases s with ⟨-, hq⟩ | ⟨-, hq⟩ <;> rw [hq]
    · exact invariant_iff.mpr ⟨{ h.stored with quiet := quiet_of_inited hin },
        .ofWrite (sp := sp) (a := a) (n := n) hr hin rfl (by simp)⟩
    · exact invariant_iff.mpr ⟨{ h.stored with
          txf := RB.write_wf h.txf _
          quiet := quiet_of_inited hin },
        .ofWrite (sp := sp) (a := a) (n := n) hr hin rfl fun _ => hie (.inr (.inl hl))⟩
  · exact invariant_iff.mpr ⟨{ h.stored with }, .ofWrite (sp := sp) (a := a) (n := n) hr hin rfl (by simp)⟩
  · exact invariant_iff.mpr ⟨{ h.stored with quiet := quiet_of_inited hin },
      .ofWrite (sp := sp) (a := a) (n := n) hr hin rfl fun _ => rfl⟩
  · exact invariant_iff.mpr ⟨{ h.stored with quiet := quiet_of_inited hin }, .idle rfl⟩

/-- A step of the command in progress keeps the invariant. -/
theorem Invariant.exec_running {i : Instr} (hr : running s = some i) (hc : s.fcause = 0) (he : exec i s = .next t) :
    Invariant t := by
  cases i with
  | csDisable f => exact h.csDisable hr he
  | csRestore f => exact h.csRestore hr he
  | rxAvail => exact h.rxAvail hr he
  | rxLineAvail =>
    obtain rfl := execRxLineAvail_eq he
    exact invariant_iff.mpr ⟨{ h.stored with }, .idle rfl⟩
  | rxReadUntil a n e => exact h.rxReadUntil hr he
  | rxReadExact a n => exact h.rxReadExact hr hc he
  | txWrite sp a n => exact h.txWrite hr he
  | init n => exact h.init he
  | _ => exact absurd (running_port hr) nofun

theorem Invariant.mStep (hc : s.fcause = 0) (he : mStep s = .next t) : Invariant t := by
  rcases mStep_cases he with ⟨hb, rfl⟩ | ⟨i, hr, he⟩
  · exact h.fetch hb
  · exact h.exec_running hr hc he

/-- Every enabled transition keeps the invariant. -/
theorem Invariant.transition {u : Turn} (hen : s.enabled u = true) (he : fire u s = .next t) : Invariant t := by
  cases u with
  | m => exact h.mStep (enabled_m.mp hen).2.1 he
  | i f =>
    obtain ⟨hok, hin⟩ := enabled_i hen
    cases f with
    | rx => exact h.rxIsr (rxK_le_of_blockOk hok) hin he
    | tx => exact h.txIsr hin he
  | e f =>
    cases f with
    | rx => cases he; exact h.eRx
    | tx => cases he; exact h.eTx
  | test => exact h.tStep he

end Command

/-- Settles O55: one transition of an enabled agent, after the scheduler's bookkeeping. -/
theorem stepKeepsTheInvariant : Obligations.StepKeepsTheInvariant := by
  unfold Obligations.StepKeepsTheInvariant
  intro s s' h hs
  obtain ⟨u, hen, he⟩ := step_cases hs
  exact h.tick.transition ((tick_enabled u s).trans hen) he

end Sys2Proof.Machine

/-! ## Starts, progress and the reachable states -/

namespace Sys2Proof.Machine

theorem resetOf_stored {cfg : Config} {dataInit progImage : Memory} (hok : cfg.blockOk = true)
    (hd : Memory.wf dataInit = true) (hp : Memory.wf progImage = true) :
    Stored (State.resetOf cfg dataInit progImage) where
  rxf := RB.reset_wf 8 cfg.rxK
  txf := RB.reset_wf 8 cfg.txK
  testRb := RB.reset_wf 16 cfg.testK
  testFits := by
    rw [elementsFit_iff]
    intro x hx
    obtain rfl := List.eq_of_mem_replicate hx
    exact Nat.two_pow_pos _
  newlines := by
    have hc : (State.resetOf cfg dataInit progImage).rxf.contents cfg.rxK = [] := RB.reset_contents 8 cfg.rxK
    exact (congrArg (List.count newline) hc).symm
  data := hd
  prog := hp
  depthRx := Nat.zero_le _
  depthTx := Nat.zero_le _
  cpc := Nat.zero_le _
  quiet _ := ⟨rfl, rfl, rfl, rfl, rfl, rfl⟩
  record _ := ⟨rfl, rfl, by simp [State.resetOf, hok]⟩

theorem Start.invariant {s : State} (h : Start s) : Invariant s := by
  obtain ⟨cfg, dataInit, progImage, words, turns, hok, -, hd, hp, rfl⟩ := h
  exact invariant_iff.mpr ⟨{ resetOf_stored hok hd hp with }, .idle rfl⟩

theorem Start.transmitGate {s : State} (h : Start s) : TransmitGate s := by
  obtain ⟨cfg, dataInit, progImage, words, turns, -, -, -, -, rfl⟩ := h
  exact fun _ he => absurd (he : true = false) nofun

theorem start_reset : Start State.reset :=
  ⟨Config.chosen, [], [], [], [], by decide, by decide, rfl, rfl, rfl⟩

/-- Settles O54: FIFOs empty, agent M idle and no guard open. -/
theorem startHasTheInvariant : Obligations.StartHasTheInvariant :=
  ⟨fun _ h => ⟨h.invariant, h.transmitGate⟩, start_reset⟩

/-- The invariant holds of every state that a run reaches. -/
theorem Reachable.invariant {s : State} (h : Reachable s) : Invariant s := by
  induction h with
  | start hs => exact hs.invariant
  | next _ hs ih => exact stepKeepsTheInvariant _ _ ih hs

/-- Settles O57: (a) and (c) follow from the masked indices, (b) is the invariant's. -/
theorem newlineCountOfReachableStates : Obligations.NewlineCountOfReachableStates := by
  unfold Obligations.NewlineCountOfReachableStates
  intro s hs
  have h := hs.invariant
  have hrx := RB.count_lt h.rxf
  have htx := RB.count_lt h.txf
  refine ⟨⟨by omega, by omega⟩, ?_, newlines_le_count h.newlines⟩
  rw [h.newlines, List.count_eq_length_filter]

/-! ### Progress -/

/-- A command of port M has a next state at each label of its microprogram. -/
theorem exec_portM_next {i : Instr} {s : State} (hl : hasLabel i s.loc.label = true) : ∃ t, exec i s = .next t := by
  cases i with
  | csDisable f =>
    simp only [exec, execCsDisable]
    split <;> exact ⟨_, rfl⟩
  | csRestore f =>
    simp only [exec, execCsRestore]
    split <;> exact ⟨_, rfl⟩
  | init n =>
    simp only [exec, execInit]
    split <;> exact ⟨_, rfl⟩
  | rxLineAvail => exact ⟨_, rfl⟩
  | rxAvail =>
    simp only [exec, execRxAvail]
    cases hq : s.loc.label <;> simp [hasLabel, hq] at hl ⊢
  | rxReadUntil a n e =>
    simp only [exec, execRxReadUntil]
    cases hq : s.loc.label <;> simp [hasLabel, hq] at hl ⊢
    cases readUntilExit s <;> exact ⟨_, rfl⟩
  | rxReadExact a n =>
    simp only [exec, execRxReadExact]
    cases hq : s.loc.label <;> simp [hasLabel, hq] at hl ⊢
    cases readUntilExit s <;> exact ⟨_, rfl⟩
  | txWrite sp a n =>
    simp only [exec, execTxWrite]
    cases hq : s.loc.label <;> simp [hasLabel, hq] at hl ⊢
  | _ => cases hl

theorem exec_handler_next (f : Source) (s : State) : ∃ t, exec (handlerOf f) s = .next t := by
  cases f with
  | rx =>
    simp only [handlerOf, exec, execRxIsr]
    split <;> exact ⟨_, rfl⟩
  | tx =>
    simp only [handlerOf, exec, execTxIsr]
    split <;> exact ⟨_, rfl⟩

theorem tStep_next (s : State) : ∃ t, tStep s = .next t := by
  rcases tStep_cases s with ⟨-, e⟩ | ⟨w, rest, -, ⟨-, e⟩ | ⟨i, hp, -, e⟩⟩
  · exact ⟨_, e⟩
  · exact ⟨_, e⟩
  · obtain ⟨_, _, he⟩ := exec_portT hp { s with test.input := rest }
    exact ⟨_, e.trans he⟩

/-- A step of agent M has a next state, since a command in progress is at a label of its own. -/
theorem Control.mStep_next {s : State} (h : Control s) : ∃ t, mStep s = .next t := by
  cases hb : s.loc.busy with
  | false => exact ⟨_, mStep_idle hb⟩
  | true =>
    obtain ⟨i, hd, hl, -⟩ := h.placed hb
    rw [mStep_running (running_eq_some.mpr ⟨hb, hd⟩)]
    exact exec_portM_next hl

theorem Invariant.fire_next {s : State} (h : Invariant s) (u : Turn) : ∃ t, fire u s = .next t := by
  cases u with
  | m => exact h.control.mStep_next
  | i f => exact exec_handler_next f s
  | e f => cases f <;> exact ⟨_, rfl⟩
  | test => exact tStep_next s

/-- Settles O56: the scheduled transition is enabled, and every transition has a next state under the invariant. -/
theorem invariantMeansProgress : Obligations.InvariantMeansProgress := by
  unfold Obligations.InvariantMeansProgress
  intro s h hen
  obtain ⟨-, hex⟩ := stepTakesAnEnabledTurn s
  obtain ⟨u, -, hs⟩ := hex hen
  rw [hs]
  exact h.tick.fire_next u

end Sys2Proof.Machine

/-! ## The transmit gate (R38 (a)) -/

namespace Sys2Proof.Machine

/-- The transmit gate on what it looks at: the open mainline transmit guards innermost first, whether TXF is empty,
and TXIE. -/
def GateHolds (guards : List Bool) (empty txie : Bool) : Prop :=
  match guards.reverse with
  | [] => empty = false → txie = true
  | outer :: inner => txie = false ∧ (∀ b ∈ inner, b = false) ∧ (empty = false → outer = true)

theorem transmitGate_iff {s : State} :
    TransmitGate s ↔ (insideWrite s = false → GateHolds s.gstkTx s.txf.isEmpty s.txie) := Iff.rfl

theorem gateHolds_nil {empty txie : Bool} : GateHolds [] empty txie ↔ (empty = false → txie = true) := Iff.rfl

/-- Every captured bit but the outermost is 0 while a guard is open. -/
theorem gateHolds_append {inner : List Bool} {outer empty txie : Bool} :
    GateHolds (inner ++ [outer]) empty txie ↔
      txie = false ∧ (∀ b ∈ inner, b = false) ∧ (empty = false → outer = true) := by
  simp [GateHolds]

/-- The two shapes of a save stack: no open guard, or an outermost one below the inner ones. -/
theorem guards_cases (g : List Bool) : g = [] ∨ ∃ inner outer, g = inner ++ [outer] := by
  rcases List.eq_nil_or_concat g with rfl | ⟨l, b, h⟩
  · exact .inl rfl
  · exact .inr ⟨l, b, by simpa using h⟩

/-- CS_DISABLE captures TXIE, and the gate then rests on the captured bits. -/
theorem GateHolds.push {g : List Bool} {empty txie : Bool} (h : GateHolds g empty txie) :
    GateHolds (txie :: g) empty false := by
  rcases guards_cases g with rfl | ⟨inner, outer, rfl⟩
  · exact (gateHolds_append (inner := [])).mpr ⟨rfl, by simp, h⟩
  · obtain ⟨hie, hin, hout⟩ := gateHolds_append.mp h
    exact (gateHolds_append (inner := txie :: inner)).mpr ⟨rfl, by simpa [hie] using hin, hout⟩

/-- CS_RESTORE gives TXIE back the innermost captured bit. -/
theorem GateHolds.pop {p : Bool} {g : List Bool} {empty txie : Bool} (h : GateHolds (p :: g) empty txie) :
    GateHolds g empty p := by
  rcases guards_cases g with rfl | ⟨inner, outer, rfl⟩
  · exact (gateHolds_append (inner := []).mp h).2.2
  · obtain ⟨-, hin, hout⟩ := gateHolds_append (inner := p :: inner).mp h
    rw [List.forall_mem_cons] at hin
    exact gateHolds_append.mpr ⟨hin.1, hin.2, hout⟩

/-- TX_ISR on an empty TXF clears TXIE. -/
theorem GateHolds.disable {g : List Bool} {txie : Bool} (h : GateHolds g true txie) : GateHolds g true false := by
  rcases guards_cases g with rfl | ⟨inner, outer, rfl⟩
  · exact gateHolds_nil.mpr nofun
  · obtain ⟨-, hin, hout⟩ := gateHolds_append.mp h
    exact gateHolds_append.mpr ⟨rfl, hin, hout⟩

/-- Taking a byte of TXF asks no more of the enable bit. -/
theorem GateHolds.take {g : List Bool} {empty txie : Bool} (h : GateHolds g false txie) : GateHolds g empty txie := by
  rcases guards_cases g with rfl | ⟨inner, outer, rfl⟩
  · exact gateHolds_nil.mpr fun _ => h rfl
  · obtain ⟨hie, hin, hout⟩ := gateHolds_append.mp h
    exact gateHolds_append.mpr ⟨hie, hin, fun _ => hout rfl⟩

/-! ### Agent M at the gate -/

theorem insideWrite_of_running {s : State} {i : Instr} (hr : running s = some i) (hi : ∀ sp a n, i ≠ .txWrite sp a n) :
    insideWrite s = false := by
  unfold insideWrite
  rw [hr]
  cases i with
  | txWrite sp a n => exact absurd rfl (hi sp a n)
  | _ => rfl

theorem insideWrite_idle {s : State} (hb : s.loc.busy = false) : insideWrite s = false := by
  simp [insideWrite, running_idle hb]

theorem insideWrite_write {s : State} {sp : Space} {a n : Half} (hr : running s = some (.txWrite sp a n))
    (hl : s.loc.label ≠ .l0) : insideWrite s = true := by
  simp [insideWrite, hr, hl]

/-- Past its first step a TX_WRITE in progress has the gate for free. -/
theorem TransmitGate.ofWrite {s : State} {sp : Space} {a n : Half} (hr : running s = some (.txWrite sp a n))
    (hl : s.loc.label ≠ .l0) : TransmitGate s := fun hw => by
  rw [insideWrite_write hr hl] at hw
  cases hw

/-- The gate looks at CPC and the fault record no more than at the micro-state between commands. -/
theorem TransmitGate.fetch {s : State} (hg : TransmitGate s) (hb : s.loc.busy = false) : TransmitGate (fetch s) := by
  obtain ⟨_, _, _, _, _, _, e⟩ := fetch_frame s
  rw [e]
  exact fun _ => hg (insideWrite_idle hb)

/-- Inside TX_WRITE the gate is free, and its last step re-enables the interrupt with no mainline guard open. -/
theorem TransmitGate.txWrite {s t : State} {sp : Space} {a n : Half} (hr : running s = some (.txWrite sp a n))
    (hn : s.gstkTx = []) (he : exec (.txWrite sp a n) s = .next t) : TransmitGate t := by
  rcases execTxWrite_cases he with ⟨hl, rfl⟩ | ⟨hl, rfl⟩ | ⟨hl, rfl⟩ | ⟨hl, rfl⟩ | ⟨hl, rfl⟩ | ⟨hl, rfl⟩
  · exact .ofWrite (sp := sp) (a := a) (n := n) hr nofun
  · rcases txFetch_cases s with ⟨-, -, e⟩ | ⟨-, ⟨-, e⟩ | ⟨-, e⟩⟩ <;> rw [e]
    · exact .ofWrite (sp := sp) (a := a) (n := n) hr nofun
    · refine .ofWrite (sp := sp) (a := a) (n := n) hr ?_
      dsimp only
      split_ifs <;> nofun
    · obtain ⟨_, _, _, hf⟩ := raiseFault_frame .accessFault (BitVec.ofNat 16 (bufferByte s.loc.addr s.loc.cnt)) s
      rw [hf]
      exact .ofWrite (sp := sp) (a := a) (n := n) hr (by simp [hl])
  · rcases txPush_cases s with ⟨-, e⟩ | ⟨-, e⟩ <;> rw [e]
    · exact .ofWrite (sp := sp) (a := a) (n := n) hr nofun
    · exact .ofWrite (sp := sp) (a := a) (n := n) hr nofun
  · exact .ofWrite (sp := sp) (a := a) (n := n) hr nofun
  · exact .ofWrite (sp := sp) (a := a) (n := n) hr nofun
  · refine transmitGate_iff.mpr fun _ => ?_
    show GateHolds s.gstkTx s.txf.isEmpty true
    rw [hn]
    exact gateHolds_nil.mpr fun _ => rfl

section Command

variable {s t : State} (hg : TransmitGate s)
include hg

theorem TransmitGate.txIsr (he : exec .txIsr s = .next t) : TransmitGate t := by
  rcases execTxIsr_cases he with ⟨hemp, rfl⟩ | ⟨hemp, rfl⟩
  · intro hw
    have h : GateHolds s.gstkTx s.txf.isEmpty s.txie := hg hw
    rw [hemp] at h
    exact transmitGate_iff.mpr (fun _ => hemp ▸ h.disable) hw
  · intro hw
    have h : GateHolds s.gstkTx s.txf.isEmpty s.txie := hg hw
    rw [hemp] at h
    exact h.take

/-- A step of the command in progress keeps the gate, outside a TX_WRITE inside an open transmit guard. -/
theorem TransmitGate.exec_running (h : Invariant s) {i : Instr} (hr : running s = some i)
    (hn : ¬ WritesInsideGuard s) (he : exec i s = .next t) : TransmitGate t := by
  by_cases hi : ∀ sp a n, i ≠ .txWrite sp a n
  · have hs : GateHolds s.gstkTx s.txf.isEmpty s.txie := hg (insideWrite_of_running hr hi)
    cases i with
    | csDisable f =>
      rcases execCsDisable_cases he with ⟨-, rfl⟩ | ⟨-, rfl⟩
      · simpa [transmitGate_iff] using fun _ => hs
      · cases f with
        | rx => exact fun _ => hs
        | tx => exact fun _ => hs.push
    | csRestore f =>
      rcases execCsRestore_cases he with ⟨-, rfl⟩ | ⟨p, rest, hp, rfl⟩
      · simpa [transmitGate_iff] using fun _ => hs
      · cases f with
        | rx => exact fun _ => hs
        | tx =>
          have hcons : s.gstkTx = p :: rest := hp
          rw [hcons] at hs
          exact fun _ => hs.pop
    | rxAvail =>
      obtain ⟨_, _, _, rfl⟩ := rxAvail_frame he
      exact fun _ => hs
    | rxLineAvail =>
      obtain rfl := execRxLineAvail_eq he
      exact fun _ => hs
    | rxReadUntil a n e =>
      obtain ⟨_, _, _, _, _, _, _, _, _, rfl⟩ := rxReadUntil_frame he
      exact fun _ => hs
    | rxReadExact a n =>
      obtain ⟨_, _, _, _, _, _, _, _, _, rfl⟩ := rxReadExact_frame he
      exact fun _ => hs
    | init n =>
      rcases execInit_cases he with ⟨-, rfl⟩ | ⟨hin, rfl⟩
      · simpa [transmitGate_iff] using fun _ => hs
      · obtain ⟨-, -, -, hemp, -, hstk⟩ := h.quiet hin
        exact transmitGate_iff.mpr fun _ => by
          show GateHolds s.gstkTx s.txf.isEmpty false
          rw [hemp, hstk]
          exact gateHolds_nil.mpr nofun
    | txWrite sp a n => exact absurd rfl (hi sp a n)
    | _ => exact absurd (running_port hr) nofun
  · push Not at hi
    obtain ⟨sp, a, n, rfl⟩ := hi
    have hnil : s.gstkTx = [] := by
      by_contra hne
      exact hn ⟨hne, sp, a, n, hr⟩
    exact .txWrite hr hnil he

theorem TransmitGate.transition (h : Invariant s) {u : Turn} (hn : ¬ WritesInsideGuard s) (he : fire u s = .next t) :
    TransmitGate t := by
  cases u with
  | m =>
    rcases mStep_cases he with ⟨hb, rfl⟩ | ⟨i, hr, he⟩
    · exact hg.fetch hb
    · exact hg.exec_running h hr hn he
  | i f =>
    cases f with
    | rx =>
      obtain ⟨_, _, _, rfl⟩ := rxIsr_frame he
      exact hg
    | tx => exact hg.txIsr he
  | e f =>
    cases f with
    | rx =>
      cases he
      obtain ⟨_, _, _, _, e⟩ := eRx_frame s
      rw [e]
      exact hg
    | tx =>
      cases he
      exact hg
  | test =>
    rw [tStep_frame he]
    exact hg

end Command

/-- Settles O58: one transition of an enabled agent, after the scheduler's bookkeeping. -/
theorem transmitGateIsKept : Obligations.TransmitGateIsKept := by
  unfold Obligations.TransmitGateIsKept
  intro s s' h hg hn hs
  obtain ⟨u, -, he⟩ := step_cases hs
  have hgt : TransmitGate (tick s) := hg
  exact hgt.transition h.tick hn he

end Sys2Proof.Machine

/-! ## Memory (20_memory.md) -/

namespace Sys2Proof.Machine

/-! ### PROG and the parameters -/

/-- Every agent's transition leaves PROG and the parameters alone (R20, R51). -/
theorem fire_prog_cfg {u : Turn} {s t : State} (h : fire u s = .next t) : t.prog = s.prog ∧ t.cfg = s.cfg := by
  have command {i : Instr} (he : exec i s = .next t) : t.prog = s.prog ∧ t.cfg = s.cfg := by
    obtain ⟨hcfg, -, hprog, -⟩ := eachCommandLeavesTheRest i s t he
    exact ⟨hprog, hcfg⟩
  cases u with
  | m =>
    rcases mStep_cases h with ⟨-, rfl⟩ | ⟨i, -, he⟩
    · obtain ⟨_, _, _, _, _, _, hf⟩ := fetch_frame s
      simp [hf]
    · exact command he
  | i f => exact command h
  | e f =>
    cases f with
    | rx =>
      cases h
      obtain ⟨_, _, _, _, hf⟩ := eRx_frame s
      simp [hf]
    | tx =>
      cases h
      exact ⟨rfl, rfl⟩
  | test =>
    rw [tStep_frame h]
    exact ⟨rfl, rfl⟩

/-- Settles O46: the scheduler's bookkeeping and the transition it picks both leave PROG and the parameters alone. -/
theorem progAndConfigurationNeverChange : Obligations.ProgAndConfigurationNeverChange := by
  unfold Obligations.ProgAndConfigurationNeverChange
  intro s s' h
  obtain ⟨u, -, hf⟩ := step_cases h
  simpa using fire_prog_cfg hf

/-! ### Stores to DATA -/

/-- The memory `d` is DATA of `s`, or DATA of `s` with one byte written at ADDR + CNT, an address inside the space
(R53, R77). -/
def StoresAtMostBufferByte (s : State) (d : Memory) : Prop :=
  d = s.data ∨
    bufferByte s.loc.addr s.loc.cnt ≤ topAddress ∧ ∃ v, d = s.data.write (bufferByte s.loc.addr s.loc.cnt) v

/-- Every byte but the one at ADDR + CNT reads as before. -/
theorem StoresAtMostBufferByte.read_other {s : State} {d : Memory} (h : StoresAtMostBufferByte s d) {x : Nat}
    (hx : x ≠ bufferByte s.loc.addr s.loc.cnt) : d.read x = s.data.read x := by
  rcases h with he | ⟨-, v, he⟩
  · rw [he]
  · rw [he, Memory.read_write_other _ _ hx]

/-- Where ADDR + CNT is past the top, nothing is stored. -/
theorem StoresAtMostBufferByte.past_top {s : State} {d : Memory} (h : StoresAtMostBufferByte s d)
    (ha : topAddress < bufferByte s.loc.addr s.loc.cnt) : d = s.data := by
  rcases h with he | ⟨hle, -⟩
  · exact he
  · exact absurd ha (Nat.not_lt.mpr hle)

theorem readUntilEnter_data (a n : Half) (e : Byte) (l : Label) (s : State) :
    (readUntilEnter a n e l s).data = s.data := by
  obtain ⟨_, _, _, _, _, hf⟩ := readUntilEnter_frame a n e l s
  rw [hf]

theorem readUntilPass_stores (l m : Label) (s : State) : StoresAtMostBufferByte s (readUntilPass l m s).data := by
  rcases readUntilPass_cases l m s with ⟨-, he⟩ | ⟨-, -, ⟨-, -, he⟩ | ⟨-, hle, he⟩ | ⟨-, -, he⟩⟩
  · exact .inl (by rw [he])
  · exact .inl (by rw [he])
  · exact .inr ⟨hle, _, by rw [he]⟩
  · exact .inl (by rw [he, raiseFault_data])

theorem readUntilExit_ok_stores {s u : State} (h : readUntilExit s = .ok u) : StoresAtMostBufferByte s u.data := by
  rcases readUntilExit_cases s with ⟨-, he⟩ | ⟨-, hle, he⟩ | ⟨-, -, he⟩ <;> cases he.symm.trans h
  · exact .inl rfl
  · exact .inr ⟨hle, _, rfl⟩

theorem readUntilExit_error_data {s t : State} (h : readUntilExit s = .error t) : t.data = s.data := by
  obtain ⟨c, a, rfl⟩ := readUntilExit_error h
  exact raiseFault_data c a s

theorem rxReadUntil_stores {a n : Half} {e : Byte} {s t : State} (h : exec (.rxReadUntil a n e) s = .next t) :
    StoresAtMostBufferByte s t.data := by
  rcases execRxReadUntil_cases h with ⟨-, rfl⟩ | ⟨-, rfl⟩ | ⟨-, he | ⟨u, he, rfl⟩⟩
  · exact .inl (readUntilEnter_data a n e .l1 s)
  · exact readUntilPass_stores .l1 .l2 s
  · exact .inl (readUntilExit_error_data he)
  · simpa only [finish_data] using readUntilExit_ok_stores he

theorem rxReadExact_stores {a n : Half} {s t : State} (h : exec (.rxReadExact a n) s = .next t) :
    StoresAtMostBufferByte s t.data := by
  rcases execRxReadExact_cases h with
    ⟨-, rfl⟩ | ⟨-, rfl⟩ | ⟨-, rfl⟩ | ⟨-, rfl⟩ | ⟨-, rfl⟩ | ⟨-, he | ⟨u, he, rfl⟩⟩
  · exact .inl rfl
  · exact .inl rfl
  · exact .inl rfl
  · exact .inl (readUntilEnter_data s.loc.addr s.loc.len 0 .l3r1 s)
  · exact readUntilPass_stores .l3r1 .l3r2 s
  · exact .inl (readUntilExit_error_data he)
  · simpa only [finish_data] using readUntilExit_ok_stores he

/-- A command other than the two reads leaves DATA alone. -/
theorem exec_data {i : Instr} (hu : ∀ a n e, i ≠ .rxReadUntil a n e) (hx : ∀ a n, i ≠ .rxReadExact a n)
    {s t : State} (h : exec i s = .next t) : t.data = s.data := by
  cases i with
  | rxReadUntil a n e => exact absurd rfl (hu a n e)
  | rxReadExact a n => exact absurd rfl (hx a n)
  | csDisable f =>
    obtain ⟨_, _, _, _, _, _, _, rfl⟩ := csDisable_frame h
    simp
  | csRestore f =>
    obtain ⟨_, _, _, _, _, _, rfl⟩ := csRestore_frame h
    simp
  | rxAvail =>
    obtain ⟨_, _, _, rfl⟩ := rxAvail_frame h
    rfl
  | rxLineAvail =>
    obtain rfl := execRxLineAvail_eq h
    rfl
  | txWrite sp a n =>
    obtain ⟨_, _, _, _, _, _, _, rfl⟩ := txWrite_frame h
    rfl
  | rxIsr =>
    obtain ⟨_, _, _, rfl⟩ := rxIsr_frame h
    rfl
  | txIsr =>
    obtain ⟨_, _, _, _, rfl⟩ := txIsr_frame h
    rfl
  | init n =>
    obtain ⟨_, _, _, _, _, _, _, _, rfl⟩ := init_frame h
    rfl
  | rbWrite | rbRead | rbCount | rbIsfull | rbIsempty =>
    obtain ⟨_, _, rfl⟩ := portT_frame (by rfl) h
    rfl

/-- Every command's step stores at most the byte at ADDR + CNT. -/
theorem exec_stores {i : Instr} {s t : State} (h : exec i s = .next t) : StoresAtMostBufferByte s t.data := by
  by_cases hu : ∃ a n e, i = .rxReadUntil a n e
  · obtain ⟨a, n, e, rfl⟩ := hu
    exact rxReadUntil_stores h
  · by_cases hx : ∃ a n, i = .rxReadExact a n
    · obtain ⟨a, n, rfl⟩ := hx
      exact rxReadExact_stores h
    · exact .inl (exec_data (fun a n e he => hu ⟨a, n, e, he⟩) (fun a n he => hx ⟨a, n, he⟩) h)

/-- Settles O47: the commands other than the reads keep DATA, and a step of a read stores at most the byte at
ADDR + CNT. -/
theorem dataWritesLandAtTheBufferByte : Obligations.DataWritesLandAtTheBufferByte := by
  unfold Obligations.DataWritesLandAtTheBufferByte
  intro i s t h
  have hst : StoresAtMostBufferByte s t.data := exec_stores h
  refine ⟨fun hu hx => exec_data hu hx h, ?_, hst.past_top⟩
  rintro a rfl x hx
  exact hst.read_other hx

end Sys2Proof.Machine


/-! ## The fields of a command word

R79 gives each row's fixed bits as a mask and a match. Here the same check is read field by field (R71): a word is its
fields one after the other, and a row fixes whole fields, except for the upper bits of RB_WRITE's operand. -/

namespace Sys2Proof

/-- Two concatenations of the same widths are equal part by part. -/
theorem append_eq_append_iff {v w : Nat} {a b : BitVec v} {c d : BitVec w} : a ++ c = b ++ d ↔ a = b ∧ c = d := by
  constructor
  · intro h
    have hl : (a ++ c).extractLsb' w v = (b ++ d).extractLsb' w v := by rw [h]
    have hr : (a ++ c).extractLsb' 0 w = (b ++ d).extractLsb' 0 w := by rw [h]
    rw [BitVec.extractLsb'_append_eq_left, BitVec.extractLsb'_append_eq_left] at hl
    rw [BitVec.extractLsb'_append_eq_right, BitVec.extractLsb'_append_eq_right] at hr
    exact ⟨hl, hr⟩
  · rintro ⟨rfl, rfl⟩
    rfl

/-- RSV0 = word 0 bits 21:16. -/
def rsv0Field (w0 : Word) : BitVec 6 := w0.extractLsb' 16 6

/-- RSV1 = word 1 bits 31:24. -/
def rsv1Field (w1 : Word) : Byte := w1.extractLsb' 24 8

/-- A word 0 with any RSV0 (format C). -/
def packWord0 (b : Byte) (s f : Bool) (r : BitVec 6) (n : Half) : Word :=
  b ++ BitVec.ofBool s ++ BitVec.ofBool f ++ r ++ n

/-- A word 1 with any RSV1 (format A). -/
def packWord1 (r t : Byte) (a : Half) : Word := r ++ t ++ a

theorem word0_eq_pack (b : Byte) (s f : Bool) (n : Half) : word0 b s f n = packWord0 b s f 0 n := rfl

theorem word1_eq_pack (t : Byte) (a : Half) : word1 t a = packWord1 0 t a := rfl

theorem packWord0_eq_iff {b b' : Byte} {s s' f f' : Bool} {r r' : BitVec 6} {n n' : Half} :
    packWord0 b s f r n = packWord0 b' s' f' r' n' ↔ b = b' ∧ s = s' ∧ f = f' ∧ r = r' ∧ n = n' := by
  rw [packWord0, packWord0, append_eq_append_iff (v := 8 + 1 + 1 + 6) (w := 16)]
  simp only [append_eq_append_iff, BitVec.ofBool_eq_iff_eq, and_assoc]

theorem packWord1_eq_iff {r r' t t' : Byte} {a a' : Half} :
    packWord1 r t a = packWord1 r' t' a' ↔ r = r' ∧ t = t' ∧ a = a' := by
  rw [packWord1, packWord1, append_eq_append_iff (v := 16) (w := 16), append_eq_append_iff, and_assoc]

theorem packWord0_and (b b' : Byte) (s s' f f' : Bool) (r r' : BitVec 6) (n n' : Half) :
    packWord0 b s f r n &&& packWord0 b' s' f' r' n' =
      packWord0 (b &&& b') (s && s') (f && f') (r &&& r') (n &&& n') := by
  rw [packWord0, packWord0, BitVec.and_append (w := 8 + 1 + 1 + 6) (v := 16)]
  simp only [BitVec.and_append, BitVec.ofBool_and_ofBool, packWord0]

theorem packWord1_and (r r' t t' : Byte) (a a' : Half) :
    packWord1 r t a &&& packWord1 r' t' a' = packWord1 (r &&& r') (t &&& t') (a &&& a') := by
  rw [packWord1, packWord1, BitVec.and_append (w := 16) (v := 16), BitVec.and_append, packWord1]

/-- A bit of a word, as a one-bit field. -/
theorem ofBool_getLsbD (w : Word) (i : Nat) : BitVec.ofBool (w.getLsbD i) = w.extractLsb' i 1 := by
  ext j hj
  obtain rfl : j = 0 := by omega
  simp

/-- Every word is its format C fields. -/
theorem packWord0_fields (w : Word) :
    packWord0 (opcField w) (sField w) (fField w) (rsv0Field w) (immField w) = w := by
  simp only [packWord0, opcField, sField, fField, rsv0Field, immField, ofBool_getLsbD]
  rw [BitVec.extractLsb'_append_extractLsb'_eq_extractLsb' (show 24 = 23 + 1 from rfl),
    BitVec.extractLsb'_append_extractLsb'_eq_extractLsb' (show 23 = 22 + 1 from rfl),
    BitVec.extractLsb'_append_extractLsb'_eq_extractLsb' (show 22 = 16 + 6 from rfl),
    BitVec.extractLsb'_append_extractLsb'_eq_extractLsb' (show 16 = 0 + 16 from rfl)]
  exact BitVec.extractLsb'_eq_self

/-- Every word is its format A fields. -/
theorem packWord1_fields (w : Word) : packWord1 (rsv1Field w) (termField w) (addrField w) = w := by
  simp only [packWord1, rsv1Field, termField, addrField]
  rw [BitVec.extractLsb'_append_extractLsb'_eq_extractLsb' (show 24 = 16 + 8 from rfl),
    BitVec.extractLsb'_append_extractLsb'_eq_extractLsb' (show 16 = 0 + 16 from rfl)]
  exact BitVec.extractLsb'_eq_self

@[simp] theorem rsv0Field_word0 (b : Byte) (s f : Bool) (n : Half) : rsv0Field (word0 b s f n) = 0 := by
  have h := packWord0_fields (word0 b s f n)
  rw [word0_eq_pack, packWord0_eq_iff] at h
  obtain ⟨-, -, -, hr, -⟩ := h
  exact hr

@[simp] theorem rsv1Field_word1 (t : Byte) (a : Half) : rsv1Field (word1 t a) = 0 := by
  have h := packWord1_fields (word1 t a)
  rw [word1_eq_pack, packWord1_eq_iff] at h
  exact h.1

/-! ## The fields a row fixes -/

/-- Whether the row has the S bit as an operand (R76). -/
def Opcode.hasS : Opcode → Bool
  | .txWrite => true
  | _ => false

/-- Whether the row has the F bit as an operand (R76). -/
def Opcode.hasF : Opcode → Bool
  | .csDisable | .csRestore => true
  | _ => false

/-- Whether the row has TERM as an operand (R76). -/
def Opcode.hasTerm : Opcode → Bool
  | .rxReadUntil => true
  | _ => false

/-- Whether the row has IMM16 as an operand (R76). -/
def Opcode.hasImm : Opcode → Bool
  | .rbWrite | .rxReadUntil | .rxReadExact | .txWrite | .init => true
  | _ => false

/-- Whether the row has a word 1. -/
def Opcode.twoWords : Opcode → Bool
  | .rxReadUntil | .rxReadExact | .txWrite => true
  | _ => false

/-- The IMM16 part of the mask0 column: the upper bits of RB_WRITE's operand, else all bits or none. -/
def Opcode.immMask (W : Nat) : Opcode → Half
  | .rbWrite => ~~~(BitVec.ofNat 16 (2 ^ W - 1))
  | o => if !o.hasImm then .allOnes 16 else 0

/-- RB_WRITE's mask frees the low bits of IMM16 alone (R79). -/
theorem rbWrite_mask0_eq_pack (m : Nat) :
    0xFFFF0000#32 ||| (0xFFFF#32 &&& ~~~(BitVec.ofNat 32 m)) =
      packWord0 (.allOnes 8) true true (.allOnes 6) (~~~(BitVec.ofNat 16 m)) := by
  have hlow : (BitVec.ofNat 32 m).extractLsb' 0 16 = BitVec.ofNat 16 m := by
    rw [← BitVec.setWidth_eq_extractLsb' (by decide), BitVec.setWidth_ofNat_of_le (by decide)]
  have hsplit : BitVec.ofNat 32 m = (BitVec.ofNat 32 m).extractLsb' 16 16 ++ BitVec.ofNat 16 m := by
    rw [← hlow]
    exact (BitVec.extractLsb'_append_extractLsb' (w := 16) (len := 16)).symm
  calc 0xFFFF0000#32 ||| (0xFFFF#32 &&& ~~~(BitVec.ofNat 32 m))
      = (BitVec.allOnes 16 ++ 0#16) |||
          ((0#16 ++ BitVec.allOnes 16) &&& ~~~((BitVec.ofNat 32 m).extractLsb' 16 16 ++ BitVec.ofNat 16 m)) := by
        rw [← hsplit]; rfl
    _ = BitVec.allOnes 16 ++ ~~~(BitVec.ofNat 16 m) := by
        rw [BitVec.not_append, BitVec.and_append, BitVec.or_append, BitVec.zero_and, BitVec.or_zero, BitVec.allOnes_and,
          BitVec.zero_or]
    _ = packWord0 (.allOnes 8) true true (.allOnes 6) (~~~(BitVec.ofNat 16 m)) := rfl

/-- The mask0 column, field by field. -/
theorem Opcode.mask0_eq_pack (W : Nat) (o : Opcode) :
    o.mask0 W = packWord0 (.allOnes 8) (!o.hasS) (!o.hasF) (.allOnes 6) (o.immMask W) := by
  cases o with
  | rbWrite => exact rbWrite_mask0_eq_pack _
  | _ =>
    simp only [mask0, immMask, hasS, hasF, hasImm, Bool.not_true, Bool.not_false]
    decide

/-- The match0 column, field by field. -/
theorem Opcode.match0_eq_pack (o : Opcode) : o.match0 = packWord0 o.opc false false 0 0 := by
  cases o <;> rfl

/-- The mask1 column, field by field. -/
theorem Opcode.mask1_eq_pack (o : Opcode) :
    o.mask1 =
      packWord1 (if o.twoWords then .allOnes 8 else 0) (if o.twoWords && !o.hasTerm then .allOnes 8 else 0) 0 := by
  cases o <;> rfl

/-- The fields of word 0 that the row fixes have their fixed values, and RB_WRITE's element fits W bits. -/
structure Opcode.FixesWord0 (W : Nat) (o : Opcode) (w0 : Word) : Prop where
  opc : opcField w0 = o.opc
  sBit : o.hasS = false → sField w0 = false
  fBit : o.hasF = false → fField w0 = false
  rsv0 : rsv0Field w0 = 0
  imm : o.hasImm = false → immField w0 = 0
  element : o = .rbWrite → (immField w0).toNat < 2 ^ W

/-- The fields of word 1 that the row fixes are 0; a one-word row fixes none. -/
structure Opcode.FixesWord1 (o : Opcode) (w1 : Word) : Prop where
  rsv1 : o.twoWords = true → rsv1Field w1 = 0
  term : o.twoWords = true → o.hasTerm = false → termField w1 = 0

/-- RB_WRITE's operand has its upper bits 0 exactly where it fits the element width (R76). -/
theorem and_not_elementMask_eq_zero_iff {W : Nat} {v : Half} :
    v &&& ~~~(BitVec.ofNat 16 (2 ^ W - 1)) = 0 ↔ v.toNat < 2 ^ W := by
  have hbit (i : Nat) : (v &&& ~~~(BitVec.ofNat 16 (2 ^ W - 1))).getLsbD i = (v.getLsbD i && !decide (i < W)) := by
    by_cases hi : i < 16
    · simp only [BitVec.getLsbD_and, BitVec.getLsbD_not, BitVec.getLsbD_ofNat, Nat.testBit_two_pow_sub_one, hi,
        decide_true, Bool.true_and]
    · rw [BitVec.getLsbD_of_ge _ i (by omega), BitVec.getLsbD_of_ge v i (by omega), Bool.false_and]
  constructor
  · intro h
    refine Nat.lt_pow_two_of_testBit v.toNat fun i hi => ?_
    have hv : (v.getLsbD i && !decide (i < W)) = false := by rw [← hbit i, h]; exact BitVec.getLsbD_zero
    rw [decide_eq_false (Nat.not_lt.mpr hi), Bool.not_false, Bool.and_true] at hv
    exact hv
  · intro h
    refine BitVec.eq_of_getLsbD_eq fun i _ => ?_
    rw [hbit i]
    by_cases hw : i < W
    · simp [hw]
    · have hv : v.getLsbD i = false :=
        Nat.testBit_lt_two_pow (lt_of_lt_of_le h (Nat.pow_le_pow_right (by decide) (by omega)))
      simp [hv]

/-- A field under a mask of all ones or none. -/
theorem and_ite_allOnes_eq_zero_iff {w : Nat} {x : BitVec w} {c : Bool} :
    (x &&& if c then .allOnes w else 0) = 0 ↔ (c = true → x = 0) := by
  cases c <;> simp

theorem Opcode.and_immMask_eq_zero_iff {W : Nat} {o : Opcode} {v : Half} :
    v &&& o.immMask W = 0 ↔ (o.hasImm = false → v = 0) ∧ (o = .rbWrite → v.toNat < 2 ^ W) := by
  cases o with
  | rbWrite => simpa [immMask, hasImm] using and_not_elementMask_eq_zero_iff
  | _ => exact and_ite_allOnes_eq_zero_iff.trans (by simp [hasImm])

/-- A bit under a mask that is set where the row has no operand there. -/
theorem and_not_eq_false_iff {b has : Bool} : (b && !has) = false ↔ (has = false → b = false) := by
  cases b <;> cases has <;> decide

/-- The check of word 0 by mask and match is the check of its fields. -/
theorem Opcode.match0_iff {W : Nat} {o : Opcode} {w0 : Word} : w0 &&& o.mask0 W = o.match0 ↔ o.FixesWord0 W w0 := by
  conv_lhs => rw [← packWord0_fields w0]
  rw [o.mask0_eq_pack, o.match0_eq_pack, packWord0_and, packWord0_eq_iff, BitVec.and_allOnes, BitVec.and_allOnes,
    and_not_eq_false_iff, and_not_eq_false_iff, Opcode.and_immMask_eq_zero_iff]
  exact ⟨fun ⟨hb, hs, hf, hr, hn, he⟩ => ⟨hb, hs, hf, hr, hn, he⟩,
    fun ⟨hb, hs, hf, hr, hn, he⟩ => ⟨hb, hs, hf, hr, hn, he⟩⟩

/-- The check of word 1 by its mask is the check of its fields. -/
theorem Opcode.match1_iff {o : Opcode} {w1 : Word} : w1 &&& o.mask1 = 0 ↔ o.FixesWord1 w1 := by
  have hz : (0 : Word) = packWord1 0 0 0 := rfl
  conv_lhs => rw [← packWord1_fields w1]
  rw [o.mask1_eq_pack, packWord1_and, hz, packWord1_eq_iff, and_ite_allOnes_eq_zero_iff, and_ite_allOnes_eq_zero_iff]
  simp only [Bool.and_eq_true, Bool.not_eq_true']
  exact ⟨fun ⟨hr, ht, _⟩ => ⟨hr, fun h h' => ht ⟨h, h'⟩⟩,
    fun ⟨hr, ht⟩ => ⟨hr, fun h => ht h.1 h.2, BitVec.and_zero⟩⟩

/-! ## Decoding and encoding through the fields -/

/-- Each row's OPC selects that row: the OPC column has no value twice (R79). -/
@[simp] theorem opcodeOf_opc_self (o : Opcode) : opcodeOf o.opc = some o := by cases o <;> rfl

/-- Decoding as a relation: the row that OPC selects, its issuer, its fixed fields and its operands (R72). -/
theorem decode_eq_ok_iff {W : Nat} {p : Port} {w0 w1 : Word} {i : Instr} :
    decode W p w0 w1 = .ok i ↔
      ∃ o : Opcode, o.port = p ∧ o.FixesWord0 W w0 ∧ o.FixesWord1 w1 ∧ o.assemble w0 w1 = i := by
  constructor
  · intro h
    obtain ⟨o, -, hp, h0, h1, rfl⟩ := decode_ok_cases h
    exact ⟨o, hp, Opcode.match0_iff.mp h0, Opcode.match1_iff.mp h1, rfl⟩
  · rintro ⟨o, rfl, h0, h1, rfl⟩
    simp [decode, h0.opc, Opcode.match0_iff.mpr h0, Opcode.match1_iff.mpr h1]

/-- `cmd_length` counts the row's words (R74). -/
theorem Opcode.FixesWord0.cmdLength_eq {W : Nat} {o : Opcode} {w0 : Word} (h : o.FixesWord0 W w0) :
    cmdLength w0 = if o.twoWords then 2 else 1 := by
  rw [cmdLength, h.opc]
  cases o <;> rfl

/-- The words of a row's command. -/
def Opcode.words (w0 w1 : Word) (o : Opcode) : List Word := if o.twoWords then [w0, w1] else [w0]

/-- Operand assembly of a one-word row does not look at a word 1. -/
theorem Opcode.assemble_oneWord {o : Opcode} (h : o.twoWords = false) (w0 w1 w1' : Word) :
    o.assemble w0 w1 = o.assemble w0 w1' := by
  cases o with
  | rxReadUntil | rxReadExact | txWrite => cases h
  | _ => rfl

/-- Words with a row's fixed fields are one command, the row's with their operands. -/
theorem Opcode.decodeWords_words {W : Nat} {o : Opcode} {w0 w1 : Word} (h0 : o.FixesWord0 W w0)
    (h1 : o.FixesWord1 w1) : decodeWords W o.port (o.words w0 w1) = some (o.assemble w0 w1) := by
  cases h : o.twoWords with
  | true =>
    have hd : decode W o.port w0 w1 = .ok (o.assemble w0 w1) := decode_eq_ok_iff.mpr ⟨o, rfl, h0, h1, rfl⟩
    simp [words, h, decodeWords, h0.cmdLength_eq, hd, Except.toOption]
  | false =>
    have hz : o.FixesWord1 0#32 := ⟨by simp [h], by simp [h]⟩
    have hd : decode W o.port w0 0#32 = .ok (o.assemble w0 w1) :=
      decode_eq_ok_iff.mpr ⟨o, rfl, h0, hz, Opcode.assemble_oneWord h w0 0#32 w1⟩
    simp [words, h, decodeWords, h0.cmdLength_eq, hd, Except.toOption]

/-- The F bit of a source is the bit that selects it. -/
@[simp] theorem bit_sourceOf (f : Bool) : (sourceOf f).bit = f := by cases f <;> rfl

/-- The S bit of a space is the bit that selects it. -/
@[simp] theorem bit_spaceOf (s : Bool) : (spaceOf s).bit = s := by cases s <;> rfl

/-- Word 0 of a row with these operands, those the row lacks at 0. -/
def Opcode.operandWord0 (s f : Bool) (n : Half) (o : Opcode) : Word :=
  word0 o.opc (o.hasS && s) (o.hasF && f) (if o.hasImm then n else 0)

/-- Word 1 of a row with these operands, TERM at 0 where the row lacks it. -/
def Opcode.operandWord1 (t : Byte) (a : Half) (o : Opcode) : Word := word1 (if o.hasTerm then t else 0) a

@[simp] theorem Opcode.sField_operandWord0 (s f : Bool) (n : Half) (o : Opcode) :
    sField (o.operandWord0 s f n) = (o.hasS && s) := sField_word0 _ _ _ _

@[simp] theorem Opcode.fField_operandWord0 (s f : Bool) (n : Half) (o : Opcode) :
    fField (o.operandWord0 s f n) = (o.hasF && f) := fField_word0 _ _ _ _

@[simp] theorem Opcode.immField_operandWord0 (s f : Bool) (n : Half) (o : Opcode) :
    immField (o.operandWord0 s f n) = if o.hasImm then n else 0 := immField_word0 _ _ _ _

@[simp] theorem Opcode.termField_operandWord1 (t : Byte) (a : Half) (o : Opcode) :
    termField (o.operandWord1 t a) = if o.hasTerm then t else 0 := termField_word1 _ _

@[simp] theorem Opcode.addrField_operandWord1 (t : Byte) (a : Half) (o : Opcode) :
    addrField (o.operandWord1 t a) = a := addrField_word1 _ _

theorem Opcode.fixesWord0_operandWord0 {W : Nat} {o : Opcode} {n : Half} (s f : Bool)
    (he : o = .rbWrite → n.toNat < 2 ^ W) : o.FixesWord0 W (o.operandWord0 s f n) where
  opc := opcField_word0 _ _ _ _
  sBit h := by simp [h]
  fBit h := by simp [h]
  rsv0 := rsv0Field_word0 _ _ _ _
  imm h := by simp [h]
  element h := by subst h; simpa [hasImm] using he rfl

theorem Opcode.fixesWord1_operandWord1 (o : Opcode) (t : Byte) (a : Half) : o.FixesWord1 (o.operandWord1 t a) where
  rsv1 _ := rsv1Field_word1 _ _
  term _ h := by simp [h]

/-- A word 0 with a row's fixed fields is the row's OPC and operands. -/
theorem Opcode.FixesWord0.operandWord0_fields {W : Nat} {o : Opcode} {w0 : Word} (h : o.FixesWord0 W w0) :
    o.operandWord0 (sField w0) (fField w0) (immField w0) = w0 := by
  have hs : (o.hasS && sField w0) = sField w0 := by cases ho : o.hasS <;> simp [ho, h.sBit]
  have hf : (o.hasF && fField w0) = fField w0 := by cases ho : o.hasF <;> simp [ho, h.fBit]
  have hn : (if o.hasImm then immField w0 else 0) = immField w0 := by cases ho : o.hasImm <;> simp [ho, h.imm]
  rw [operandWord0, hs, hf, hn, word0_eq_pack, ← h.opc, ← h.rsv0, packWord0_fields]

/-- A word 1 with a row's fixed fields is the row's operands. -/
theorem Opcode.FixesWord1.operandWord1_fields {o : Opcode} {w1 : Word} (h : o.FixesWord1 w1)
    (ho : o.twoWords = true) : o.operandWord1 (termField w1) (addrField w1) = w1 := by
  have ht : (if o.hasTerm then termField w1 else 0) = termField w1 := by cases hh : o.hasTerm <;> simp [hh, h.term ho]
  rw [operandWord1, ht, word1_eq_pack, ← h.rsv1 ho, packWord1_fields]

/-- A command encodes to its row's words with the operands that its assembly read. -/
theorem Opcode.encode_assemble (o : Opcode) (w0 w1 : Word) :
    encode (o.assemble w0 w1) =
      o.words (o.operandWord0 (sField w0) (fField w0) (immField w0))
        (o.operandWord1 (termField w1) (addrField w1)) := by
  cases o with
  | csDisable | csRestore | txWrite =>
    simp only [assemble, encode, bit_sourceOf, bit_spaceOf]
    rfl
  | _ => rfl

/-- Words with a row's fixed fields are what their own command encodes to. -/
theorem Opcode.encode_assemble_eq_words {W : Nat} {o : Opcode} {w0 w1 : Word} (h0 : o.FixesWord0 W w0)
    (h1 : o.FixesWord1 w1) : encode (o.assemble w0 w1) = o.words w0 w1 := by
  rw [o.encode_assemble, h0.operandWord0_fields]
  cases ho : o.twoWords with
  | true => rw [h1.operandWord1_fields ho]
  | false => simp [words, ho]

/-- Operands assembled from a word 0 with the row's fixed fields fit their fields (R76). -/
theorem Opcode.wf_assemble {W : Nat} {o : Opcode} {w0 : Word} (h : o.FixesWord0 W w0) (w1 : Word) :
    (o.assemble w0 w1).wf W = true := by
  cases o with
  | rbWrite => exact decide_eq_true (h.element rfl)
  | _ => rfl

/-- Every command is a row with operands. -/
theorem Instr.exists_operands (i : Instr) :
    ∃ (o : Opcode) (s f : Bool) (n : Half) (t : Byte) (a : Half),
      o.assemble (o.operandWord0 s f n) (o.operandWord1 t a) = i := by
  cases i with
  | rbWrite v => exact ⟨.rbWrite, false, false, v, 0, 0, by simp [Opcode.assemble, Opcode.hasImm]⟩
  | rbRead => exact ⟨.rbRead, false, false, 0, 0, 0, rfl⟩
  | rbCount => exact ⟨.rbCount, false, false, 0, 0, 0, rfl⟩
  | rbIsfull => exact ⟨.rbIsfull, false, false, 0, 0, 0, rfl⟩
  | rbIsempty => exact ⟨.rbIsempty, false, false, 0, 0, 0, rfl⟩
  | csDisable f => exact ⟨.csDisable, false, f.bit, 0, 0, 0, by simp [Opcode.assemble, Opcode.hasF]⟩
  | csRestore f => exact ⟨.csRestore, false, f.bit, 0, 0, 0, by simp [Opcode.assemble, Opcode.hasF]⟩
  | rxAvail => exact ⟨.rxAvail, false, false, 0, 0, 0, rfl⟩
  | rxLineAvail => exact ⟨.rxLineAvail, false, false, 0, 0, 0, rfl⟩
  | rxReadUntil a n t =>
    exact ⟨.rxReadUntil, false, false, n, t, a, by simp [Opcode.assemble, Opcode.hasImm, Opcode.hasTerm]⟩
  | rxReadExact a n => exact ⟨.rxReadExact, false, false, n, 0, a, by simp [Opcode.assemble, Opcode.hasImm]⟩
  | txWrite sp a n => exact ⟨.txWrite, sp.bit, false, n, 0, a, by simp [Opcode.assemble, Opcode.hasS, Opcode.hasImm]⟩
  | rxIsr => exact ⟨.rxIsr, false, false, 0, 0, 0, rfl⟩
  | txIsr => exact ⟨.txIsr, false, false, 0, 0, 0, rfl⟩
  | init n => exact ⟨.init, false, false, n, 0, 0, by simp [Opcode.assemble, Opcode.hasImm]⟩

/-- Every well-formed command is assembled from words that have its row's fixed fields. -/
theorem Instr.exists_words_of_wf {W : Nat} {i : Instr} (h : i.wf W = true) :
    ∃ (o : Opcode) (w0 w1 : Word), o.FixesWord0 W w0 ∧ o.FixesWord1 w1 ∧ o.assemble w0 w1 = i := by
  obtain ⟨o, s, f, n, t, a, rfl⟩ := i.exists_operands
  refine ⟨o, _, _, Opcode.fixesWord0_operandWord0 s f ?_, o.fixesWord1_operandWord1 t a, rfl⟩
  rintro rfl
  simpa [Opcode.assemble, Opcode.hasImm, Instr.wf] using h

/-! ## The statements about the encoding -/

/-- Settles O1: a well-formed command is a row's assembly of words with the row's fixed fields; it encodes to those
words, and they decode to it. -/
theorem encodeThenDecode : Obligations.EncodeThenDecode := by
  unfold Obligations.EncodeThenDecode
  intro W i _ _ hwf
  obtain ⟨o, w0, w1, h0, h1, rfl⟩ := Instr.exists_words_of_wf hwf
  rw [Opcode.encode_assemble_eq_words h0 h1, Opcode.assemble_port]
  exact Opcode.decodeWords_words h0 h1

/-- Settles O2: the words of a legal command have its row's fixed fields, so their operands are all that varies. -/
theorem decodeThenEncode : Obligations.DecodeThenEncode := by
  unfold Obligations.DecodeThenEncode
  intro W p w0 w1 i _ _ h
  obtain ⟨o, rfl, h0, h1, rfl⟩ := decode_eq_ok_iff.mp h
  refine ⟨Opcode.assemble_port w0 w1 o, Opcode.wf_assemble h0 w1, ?_⟩
  rw [Opcode.encode_assemble_eq_words h0 h1, Opcode.words, h0.cmdLength_eq]
  cases o.twoWords <;> rfl

/-- Only TX_WRITE's row has the S bit. -/
theorem Opcode.hasS_of_opc {o : Opcode} (h : o.opc ≠ 0x40) : o.hasS = false := by
  cases o with
  | txWrite => exact absurd rfl h
  | _ => rfl

/-- Only the two guard rows have the F bit. -/
theorem Opcode.hasF_of_opc {o : Opcode} (hd : o.opc ≠ 0x20) (hr : o.opc ≠ 0x21) : o.hasF = false := by
  cases o with
  | csDisable => exact absurd rfl hd
  | csRestore => exact absurd rfl hr
  | _ => rfl

/-- Only RX_READ_UNTIL's row has TERM. -/
theorem Opcode.hasTerm_of_opc {o : Opcode} (h : o.opc ≠ 0x32) : o.hasTerm = false := by
  cases o with
  | rxReadUntil => exact absurd rfl h
  | _ => rfl

/-- The rows whose IMM16 is reserved. -/
theorem Opcode.hasImm_of_opc {o : Opcode}
    (h : o.opc ∈ [0x11#8, 0x12, 0x13, 0x14, 0x20, 0x21, 0x30, 0x31, 0x50, 0x51]) : o.hasImm = false := by
  cases o with
  | rbWrite | rxReadUntil | rxReadExact | txWrite | init => exact absurd h (by decide)
  | _ => rfl

/-- Only RB_WRITE's row has OPC 0x10. -/
theorem Opcode.eq_rbWrite_of_opc {o : Opcode} (h : o.opc = 0x10) : o = .rbWrite := by
  cases o with
  | rbWrite => rfl
  | _ => exact absurd h (by decide)

theorem Opcode.FixesWord0.twoWords_of_cmdLength {W : Nat} {o : Opcode} {w0 : Word} (h : o.FixesWord0 W w0)
    (hl : cmdLength w0 = 2) : o.twoWords = true := by
  rw [h.cmdLength_eq] at hl
  cases ho : o.twoWords with
  | true => rfl
  | false => simp [ho] at hl

/-- Settles O3: each reserved field is one that the row OPC selects fixes to 0. -/
theorem reservedFieldsAreIllegal : Obligations.ReservedFieldsAreIllegal := by
  unfold Obligations.ReservedFieldsAreIllegal
  intro W p w0 w1 _ _ hres i hd
  obtain ⟨o, -, h0, h1, -⟩ := decode_eq_ok_iff.mp hd
  rw [h0.opc] at hres
  rcases hres with hr | ⟨hs, ho⟩ | ⟨hf, hd, hr⟩ | ⟨ho, hn⟩ | ⟨ho, hn⟩ | ⟨hl, hr⟩ | ⟨hl, ho, ht⟩
  · exact hr h0.rsv0
  · exact absurd (h0.sBit (Opcode.hasS_of_opc ho)) (by simp [hs])
  · exact absurd (h0.fBit (Opcode.hasF_of_opc hd hr)) (by simp [hf])
  · exact hn (h0.imm (Opcode.hasImm_of_opc ho))
  · exact absurd (h0.element (Opcode.eq_rbWrite_of_opc ho)) (Nat.not_lt.mpr hn)
  · exact hr (h1.rsv1 (h0.twoWords_of_cmdLength hl))
  · exact ht (h1.term (h0.twoWords_of_cmdLength hl) (Opcode.hasTerm_of_opc ho))

/-- A port decodes some word of an opcode exactly where the opcode has a row of that issuer. -/
theorem exists_decode_iff {W : Nat} {p : Port} {b : Byte} :
    (∃ w0 w1 i, opcField w0 = b ∧ decode W p w0 w1 = .ok i) ↔ ∃ o : Opcode, o.port = p ∧ o.opc = b := by
  constructor
  · rintro ⟨w0, w1, i, rfl, h⟩
    obtain ⟨o, hp, h0, -, -⟩ := decode_eq_ok_iff.mp h
    exact ⟨o, hp, h0.opc.symm⟩
  · rintro ⟨o, hp, rfl⟩
    have h0 : o.FixesWord0 W (o.operandWord0 false false 0) :=
      Opcode.fixesWord0_operandWord0 false false fun _ => Nat.two_pow_pos W
    exact ⟨_, _, _, h0.opc, decode_eq_ok_iff.mpr ⟨o, hp, h0, o.fixesWord1_operandWord1 0 0, rfl⟩⟩

/-- The opcodes of a port's issuer set (R75), read off R79. -/
def issuerSet (p : Port) : List Byte := (Opcode.all.filter fun o => o.port = p).map Opcode.opc

theorem Opcode.mem_all (o : Opcode) : o ∈ Opcode.all := by cases o <;> decide

theorem mem_issuerSet {p : Port} {b : Byte} : b ∈ issuerSet p ↔ ∃ o : Opcode, o.port = p ∧ o.opc = b := by
  simp [issuerSet, Opcode.mem_all]

/-- Settles O4: the issuer sets of R75 are the issuer column of R79. -/
theorem onlyTheIssuersPortDecodes : Obligations.OnlyTheIssuersPortDecodes := by
  unfold Obligations.OnlyTheIssuersPortDecodes
  intro W p opc
  rw [exists_decode_iff, ← mem_issuerSet]
  cases p <;> simp [issuerSet, Opcode.all, Opcode.port, Opcode.opc]

/-- Settles O5: five fixed lines of R83, evaluated. -/
theorem workedEncodingsDecode : Obligations.WorkedEncodingsDecode := by
  unfold Obligations.WorkedEncodingsDecode
  decide

end Sys2Proof

/-! ## Ring-buffer primitives on port T (40_ring_buffer.md) -/

namespace Sys2Proof.Machine

/-! ### The flags and the operand, as the rules write them -/

/-- A flag in RES, by the condition it stands for. -/
theorem bit16_eq_ite {b : Bool} {p : Prop} [Decidable p] (h : b = true ↔ p) : bit16 b = if p then 1 else 0 := by
  simp [bit16, h]

/-- RB_WRITE's operand is the element itself where it fits W (R76). -/
theorem elementOf_eq_self {W : Nat} {v : Half} (h : v.toNat < 2 ^ W) : elementOf W v = v := by
  simp [elementOf, Nat.mod_eq_of_lt h]

section
variable {w k : Nat} {f : RB w}

/-- FULL as R104 writes it. -/
theorem RB.isFull_iff_mask : f.isFull k = true ↔ (f.wr + 1) &&& (2 ^ k - 1) = f.rd := by
  rw [mask_eq_mod, RB.isFull, beq_iff_eq]

/-- EMPTY as R105 writes it. -/
theorem RB.isEmpty_iff_indices : f.isEmpty = true ↔ f.wr = f.rd := by rw [RB.isEmpty, beq_iff_eq]

theorem RB.isEmpty_iff_contents (h : f.Wf k) : f.isEmpty = true ↔ f.contents k = [] := by
  rw [RB.isEmpty_iff h, ← RB.contents_length, List.length_eq_zero_iff]

end

/-! ### The primitives' next states -/

theorem exec_rbWrite (v : Half) (s : State) :
    exec (.rbWrite v) s = .next { s with test := { s.test with
      rb := (s.test.rb.write s.cfg.testK (elementOf s.cfg.testW v)).2,
      res := bit16 (s.test.rb.write s.cfg.testK (elementOf s.cfg.testW v)).1 } } := rfl

theorem exec_rbRead (s : State) :
    exec .rbRead s = .next { s with test := { s.test with
      rb := (s.test.rb.read s.cfg.testK).2, res := (s.test.rb.read s.cfg.testK).1 } } := rfl

theorem exec_rbCount (s : State) :
    exec .rbCount s = .next { s with test.res := BitVec.ofNat 16 (s.test.rb.count s.cfg.testK) } := rfl

theorem exec_rbIsfull (s : State) :
    exec .rbIsfull s = .next { s with test.res := bit16 (s.test.rb.isFull s.cfg.testK) } := rfl

theorem exec_rbIsempty (s : State) : exec .rbIsempty s = .next { s with test.res := bit16 s.test.rb.isEmpty } := rfl

/-! ### The statements about one primitive -/

/-- Settles O6: the masked test is FULL, and `RB.contents_write` says what a write that finds room appends. -/
theorem rbWriteAppendsOneElement : Obligations.RbWriteAppendsOneElement := by
  unfold Obligations.RbWriteAppendsOneElement
  intro v s hv hwf
  rw [← RB.isFull_iff_mask, exec_rbWrite, elementOf_eq_self hv]
  constructor
  · intro hfull
    rw [RB.write_full hfull]
    rfl
  · intro hroom
    have hfull : s.test.rb.isFull s.cfg.testK = false := Bool.eq_false_iff.mpr (mt RB.isFull_iff_mask.mp hroom)
    refine ⟨(s.test.rb.write s.cfg.testK v).2, ?_, ?_, ?_, RB.contents_write hwf hfull v, ?_⟩ <;>
      rw [RB.write_notFull hfull]
    · rw [mask_eq_mod]
    · rfl

/-- Settles O7: no buffered element is EMPTY, and `RB.contents_read` says which element a read takes. -/
theorem rbReadTakesTheOldest : Obligations.RbReadTakesTheOldest := by
  unfold Obligations.RbReadTakesTheOldest
  intro s hwf
  rw [exec_rbRead]
  constructor
  · intro hnil
    rw [RB.read_empty ((RB.isEmpty_iff_contents hwf).mpr hnil)]
  · intro v rest hcons
    have hne : s.test.rb.isEmpty = false := by
      rw [Bool.eq_false_iff, ne_eq, RB.isEmpty_iff_contents hwf, hcons]
      exact List.cons_ne_nil v rest
    have htake := RB.contents_read hwf hne
    rw [hcons] at htake
    obtain ⟨rfl, rfl⟩ := List.cons.inj htake
    refine ⟨(s.test.rb.read s.cfg.testK).2, ?_, ?_, ?_, rfl, rfl⟩ <;> rw [RB.read_notEmpty hne]
    rw [mask_eq_mod]

/-- Settles O8: each query's value as its masked formula and, by the laws of COUNT and the flags, as a fact about the
buffered elements. -/
theorem rbQueriesAnswerTheFlags : Obligations.RbQueriesAnswerTheFlags := by
  unfold Obligations.RbQueriesAnswerTheFlags
  intro s hwf
  rw [exec_rbCount, exec_rbIsfull, exec_rbIsempty]
  refine ⟨?_, ?_, ?_, ?_, ?_, ?_⟩
  · rw [mask_eq_mod, RB.count]
  · rw [RB.contents_length]
  · rw [bit16_eq_ite RB.isFull_iff_mask]
  · rw [bit16_eq_ite (RB.isFull_iff hwf), RB.contents_length]
  · rw [bit16_eq_ite RB.isEmpty_iff_indices]
  · rw [bit16_eq_ite (RB.isEmpty_iff_contents hwf)]

/-! ### Sequences of primitives (R107) -/

/-- What every sequence of primitives keeps: masked indices, and each value written is taken or still buffered, in
order. -/
structure OpsResult.IsFifo {w : Nat} (k : Nat) (r : OpsResult w) : Prop where
  wf : r.rb.Wf k
  written : r.written = r.taken ++ r.rb.contents k

section
variable {w k : Nat} {r : OpsResult w}

/-- RB_WRITE keeps the order, with or without room. -/
theorem OpsResult.IsFifo.write (h : r.IsFifo k) (v : BitVec w) :
    OpsResult.IsFifo k { rb := (r.rb.write k v).2,
                         written := if (r.rb.write k v).1 then r.written ++ [v] else r.written,
                         taken := r.taken } where
  wf := RB.write_wf h.wf v
  written := by
    cases hf : r.rb.isFull k with
    | true => simpa [RB.write_full hf] using h.written
    | false =>
      have hok : (r.rb.write k v).1 = true := by rw [RB.write_notFull hf]
      simp [hok, RB.contents_write h.wf hf, h.written]

/-- RB_READ keeps the order, on an empty buffer too. -/
theorem OpsResult.IsFifo.read (h : r.IsFifo k) :
    OpsResult.IsFifo k { rb := (r.rb.read k).2,
                         written := r.written,
                         taken := if r.rb.isEmpty then r.taken else r.taken ++ [(r.rb.read k).1] } where
  wf := RB.read_wf h.wf
  written := by
    cases he : r.rb.isEmpty with
    | true => simpa [RB.read_empty he] using h.written
    | false => simp [h.written, RB.contents_read h.wf he]

theorem RB.runOps_isFifo (ops : List (Option (BitVec w))) (h : r.IsFifo k) : (RB.runOps k ops r).IsFifo k := by
  induction ops generalizing r with
  | nil => exact h
  | cons op ops ih =>
    cases op with
    | some v => exact ih (h.write v)
    | none => exact ih h.read

end

/-- Settles O9: by induction on the sequence, the values written are those taken followed by those still buffered. -/
theorem fifoOrderAndCount : Obligations.FifoOrderAndCount := by
  unfold Obligations.FifoOrderAndCount
  intro w k f ops hwf hempty r
  have hstart : OpsResult.IsFifo k { rb := f, written := [], taken := [] } :=
    ⟨hwf, by simp [(RB.isEmpty_iff_contents hwf).mp hempty]⟩
  have hw : r.written = r.taken ++ r.rb.contents k := (RB.runOps_isFifo ops hstart).written
  refine ⟨⟨_, hw.symm⟩, ?_, ?_⟩
  · rw [hw, List.drop_left]
  · rw [hw, List.length_append, RB.contents_length, Nat.add_sub_cancel_left]

/-! ### The words of port T (R110) -/

section
variable {s : State} {w : Word} {rest : List Word}

theorem enabled_test_iff : s.enabled .test = true ↔
    s.cfg.testOk = true ∧ s.test.fcause = 0 ∧ s.test.input ≠ [] := by
  simp [State.enabled, and_assoc]

/-- A legal word runs its primitive. -/
theorem tStep_legal (hin : s.test.input = w :: rest) {i : Instr} (hd : decode s.cfg.testW .portT w 0 = .ok i) :
    tStep s = exec i { s with test.input := rest } := by
  simp only [tStep, takeTestWord, hin, hd]

/-- An illegal word is recorded and nothing runs. -/
theorem tStep_illegal (hin : s.test.input = w :: rest) {e : DecodeError}
    (hd : decode s.cfg.testW .portT w 0 = .error e) :
    tStep s = .next { s with test := { s.test with input := rest, fcause := Cause.code .illegalCommand } } := by
  simp only [tStep, takeTestWord, hin, hd]

end

/-- Settles O10: the word at the head of the list decodes to a command or to an error. -/
theorem testPortTakesOneWord : Obligations.TestPortTakesOneWord := by
  unfold Obligations.TestPortTakesOneWord
  intro s w rest hin
  refine ⟨by simp [enabled_test_iff, hin], fun i hd => tStep_legal hin hd, fun hno => ?_⟩
  cases hd : decode s.cfg.testW .portT w 0 with
  | ok i => exact absurd hd (hno i)
  | error e => exact tStep_illegal hin hd

end Sys2Proof.Machine

/-! ## Mainline guards (41_guards.md) -/

namespace Sys2Proof.Machine

/-! ### The next states of CS_DISABLE and CS_RESTORE (R121, R122) -/

section
variable (f : Source) (s : State)

/-- The state after CS_DISABLE f with room on the save stack (R121). -/
def guardOpened : State :=
  finish { (s.setGstk f (s.ie f :: s.gstk f)).setIe f false with res := bit16 (s.ie f) }

/-- The state after CS_RESTORE f that pops p and leaves rest on the save stack (R122). -/
def guardClosed (p : Bool) (rest : List Bool) : State := finish ((s.setGstk f rest).setIe f p)

@[simp] theorem guardOpened_cfg : (guardOpened f s).cfg = s.cfg := by simp [guardOpened]

/-- Of the enable bits, opening a guard writes the source's only (R120). -/
theorem guardOpened_ie : (guardOpened f s).ie = Function.update s.ie f false := by
  funext g
  cases f <;> cases g <;> rfl

/-- Of the save stacks, opening a guard writes the source's only. -/
theorem guardOpened_gstk : (guardOpened f s).gstk = Function.update s.gstk f (s.ie f :: s.gstk f) := by
  funext g
  cases f <;> cases g <;> rfl

@[simp] theorem guardClosed_cfg (p : Bool) (rest : List Bool) : (guardClosed f s p rest).cfg = s.cfg := by
  simp [guardClosed]

/-- Of the enable bits, closing a guard writes the source's only (R120). -/
theorem guardClosed_ie (p : Bool) (rest : List Bool) : (guardClosed f s p rest).ie = Function.update s.ie f p := by
  funext g
  cases f <;> cases g <;> rfl

/-- Of the save stacks, closing a guard writes the source's only. -/
theorem guardClosed_gstk (p : Bool) (rest : List Bool) :
    (guardClosed f s p rest).gstk = Function.update s.gstk f rest := by
  funext g
  cases f <;> cases g <;> rfl

@[simp] theorem guardOpened_ie_same : (guardOpened f s).ie f = false := by simp [guardOpened_ie]

@[simp] theorem guardOpened_gstk_same : (guardOpened f s).gstk f = s.ie f :: s.gstk f := by simp [guardOpened_gstk]

@[simp] theorem guardOpened_gsp : (guardOpened f s).gsp f = s.gsp f + 1 := by simp [gsp_eq_length]

end

section
variable {f : Source} {s : State}

theorem exec_csDisable_room (h : s.gsp f ≠ s.cfg.gdepth) : exec (.csDisable f) s = .next (guardOpened f s) := if_neg h

theorem exec_csDisable_full (h : s.gsp f = s.cfg.gdepth) :
    exec (.csDisable f) s = .next (raiseFault .usageFault 0 s) := if_pos h

theorem exec_csRestore_open {p : Bool} {rest : List Bool} (h : s.gstk f = p :: rest) :
    exec (.csRestore f) s = .next (guardClosed f s p rest) := by
  simp only [exec, execCsRestore, h, guardClosed]

theorem exec_csRestore_none (h : s.gstk f = []) : exec (.csRestore f) s = .next (raiseFault .usageFault 0 s) := by
  simp only [exec, execCsRestore, h]

/-- What USAGE_FAULT records where no fault is recorded yet (R201, R204). -/
theorem raiseFault_usageFault (h : s.fcause = 0) :
    raiseFault .usageFault 0 s = { s with fcause := 0x03, fword := s.loc.cur0, faddr := 0 } := if_pos h

end

/-- Settles O12: the save stack of the source has room or is full. -/
theorem csDisableCapturesAndClears : Obligations.CsDisableCapturesAndClears := by
  unfold Obligations.CsDisableCapturesAndClears
  intro s
  refine ⟨fun hroom => exec_csDisable_room (f := .rx) hroom, fun hroom => exec_csDisable_room (f := .tx) hroom,
    fun f hfull h0 => ?_, rfl, rfl⟩
  rw [exec_csDisable_full hfull, raiseFault_usageFault h0]

/-- Settles O13: the save stack of the source holds a captured bit or is empty. -/
theorem csRestorePopsAndRestores : Obligations.CsRestorePopsAndRestores := by
  unfold Obligations.CsRestorePopsAndRestores
  intro s
  refine ⟨fun p rest hopen => exec_csRestore_open (f := .rx) hopen,
    fun p rest hopen => exec_csRestore_open (f := .tx) hopen, fun f hnone h0 => ?_, fun p => ⟨rfl, rfl⟩⟩
  rw [gsp_eq_length, List.length_eq_zero_iff] at hnone
  rw [exec_csRestore_none hnone, raiseFault_usageFault h0]

/-! ### Runs of listed commands -/

theorem execAll_cons {i : Instr} {is : List Instr} {s t : State} (h : exec i s = .next t) :
    execAll (i :: is) s = execAll is t := by
  simp only [execAll, h]

theorem execAll_append {is js : List Instr} {s t : State} (h : execAll is s = some t) :
    execAll (is ++ js) s = execAll js t := by
  induction is generalizing s with
  | nil =>
    cases h
    rfl
  | cons i is ih =>
    cases he : exec i s with
    | next u =>
      rw [execAll_cons he] at h
      rw [List.cons_append, execAll_cons he, ih h]
    | fault _ => simp [execAll, he] at h
    | refused _ => simp [execAll, he] at h

/-! ### One guard around commands that restore what they find -/

/-- Two states with the same parameters, enable bits and save stacks. -/
structure SameGuards (s t : State) : Prop where
  cfg : t.cfg = s.cfg
  ie : t.ie = s.ie
  gstk : t.gstk = s.gstk

theorem SameGuards.refl (s : State) : SameGuards s s := ⟨rfl, rfl, rfl⟩

section
variable {f : Source} {s t u : State}

theorem SameGuards.trans (h : SameGuards s t) (h' : SameGuards t u) : SameGuards s u :=
  ⟨h'.cfg.trans h.cfg, h'.ie.trans h.ie, h'.gstk.trans h.gstk⟩

theorem SameGuards.gsp (h : SameGuards s t) : t.gsp f = s.gsp f := by rw [gsp_eq_length, gsp_eq_length, h.gstk]

/-- Closing the guard writes back the bit and the stack that opening it found (R125). -/
theorem SameGuards.close (h : SameGuards (guardOpened f s) t) :
    SameGuards s (guardClosed f t (s.ie f) (s.gstk f)) where
  cfg := by rw [guardClosed_cfg, h.cfg, guardOpened_cfg]
  ie := by rw [guardClosed_ie, h.ie, guardOpened_ie, Function.update_idem, Function.update_eq_self]
  gstk := by rw [guardClosed_gstk, h.gstk, guardOpened_gstk, Function.update_idem, Function.update_eq_self]

/-- A guard with room on the save stack, around commands that restore what they find, restores what it finds. -/
theorem execAll_guard (hroom : s.gsp f ≠ s.cfg.gdepth) {inner : List Instr}
    (hin : execAll inner (guardOpened f s) = some t) (h : SameGuards (guardOpened f s) t) :
    ∃ u, SameGuards s u ∧
      ∀ rest, execAll (Instr.csDisable f :: inner ++ Instr.csRestore f :: rest) s = execAll rest u := by
  have hopen : t.gstk f = s.ie f :: s.gstk f := by rw [h.gstk, guardOpened_gstk_same]
  refine ⟨_, h.close, fun rest => ?_⟩
  rw [List.cons_append, execAll_cons (exec_csDisable_room hroom), execAll_append hin,
    execAll_cons (exec_csRestore_open hopen)]

end

/-! ### Properly nested sequences (R125) -/

/-- Where the initial part of a bracketed list and what follows it ends: before the brackets, inside them or after
them. -/
theorem prefix_bracketed_cases {α : Type} {a b : α} {inner rest part : List α}
    (h : part <+: a :: inner ++ b :: rest) :
    part = [] ∨ (∃ p, p <+: inner ∧ part = a :: p) ∨ ∃ p, p <+: rest ∧ part = a :: inner ++ b :: p := by
  rw [List.cons_append, List.prefix_cons_iff] at h
  obtain rfl | ⟨p, rfl, hp⟩ := h
  · exact .inl rfl
  obtain hin | ⟨q, rfl⟩ := List.prefix_or_prefix_of_prefix hp (List.prefix_append inner (b :: rest))
  · exact .inr (.inl ⟨p, hin, rfl⟩)
  rw [List.prefix_append_right_inj, List.prefix_cons_iff] at hp
  obtain rfl | ⟨r, rfl, hr⟩ := hp
  · exact .inr (.inl ⟨inner, List.prefix_rfl, by rw [List.append_nil]⟩)
  · exact .inr (.inr ⟨r, hr, rfl⟩)

/-- Commands after a properly nested sequence start at the depth the sequence started at. -/
theorem NestedGuards.guardRoom_append {f : Source} {is : List Instr} (h : NestedGuards f is) (js : List Instr) :
    guardRoom (is ++ js) = max (guardRoom is) (guardRoom js) := by
  induction h generalizing js with
  | none => simp [guardRoom]
  | guard _ _ ihInner ihRest =>
    simp only [List.append_assoc, List.cons_append, guardRoom, ihInner, ihRest]
    omega

theorem NestedGuards.guardRoom_guard {f : Source} {inner : List Instr} (h : NestedGuards f inner) (rest : List Instr) :
    guardRoom (Instr.csDisable f :: inner ++ Instr.csRestore f :: rest) =
      max (guardRoom inner + 1) (guardRoom rest) := by
  simp only [List.cons_append, guardRoom, h.guardRoom_append]
  omega

section
variable {f : Source} {is : List Instr} {s : State}

/-- A properly nested sequence with room on the save stack restores what it finds. -/
theorem NestedGuards.restores (h : NestedGuards f is) (hroom : s.gsp f + guardRoom is ≤ s.cfg.gdepth) :
    ∃ t, execAll is s = some t ∧ SameGuards s t := by
  induction h generalizing s with
  | none => exact ⟨s, rfl, .refl s⟩
  | guard hInner _ ihInner ihRest =>
    rw [hInner.guardRoom_guard] at hroom
    obtain ⟨t, ht, hst⟩ := ihInner (s := guardOpened f s) (by rw [guardOpened_gsp, guardOpened_cfg]; omega)
    obtain ⟨u, hsu, hrun⟩ := execAll_guard (by omega) ht hst
    obtain ⟨v, hv, huv⟩ := ihRest (s := u) (by rw [hsu.gsp, hsu.cfg]; omega)
    exact ⟨v, (hrun _).trans hv, hsu.trans huv⟩

/-- From a clear enable bit, a properly nested sequence with room holds it at 0 throughout: an inner guard captures 0
and restores 0. -/
theorem NestedGuards.holdsClear (h : NestedGuards f is) (hroom : s.gsp f + guardRoom is ≤ s.cfg.gdepth)
    (hclear : s.ie f = false) {part : List Instr} (hpart : part <+: is) :
    ∃ t, execAll part s = some t ∧ t.ie f = false := by
  induction h generalizing s part with
  | none =>
    rw [List.prefix_nil] at hpart
    exact ⟨s, by rw [hpart, execAll], hclear⟩
  | @guard inner rest hInner _ ihInner ihRest =>
    rw [hInner.guardRoom_guard] at hroom
    have hdepth : s.gsp f ≠ s.cfg.gdepth := by omega
    have hroomInner : (guardOpened f s).gsp f + guardRoom inner ≤ (guardOpened f s).cfg.gdepth := by
      rw [guardOpened_gsp, guardOpened_cfg]
      omega
    obtain rfl | ⟨p, hp, rfl⟩ | ⟨p, hp, rfl⟩ := prefix_bracketed_cases hpart
    · exact ⟨s, rfl, hclear⟩
    · rw [execAll_cons (exec_csDisable_room hdepth)]
      exact ihInner hroomInner (guardOpened_ie_same f s) hp
    · obtain ⟨t, ht, hst⟩ := hInner.restores hroomInner
      obtain ⟨u, hsu, hrun⟩ := execAll_guard hdepth ht hst
      rw [hrun]
      exact ihRest (by rw [hsu.gsp, hsu.cfg]; omega) (by rw [hsu.ie, hclear]) hp

end

/-- Settles O14: the outer guard clears the bit, which `NestedGuards.holdsClear` keeps at 0 inside; closed, it is itself
a properly nested sequence, to which `NestedGuards.restores` applies. -/
theorem nestedGuardsRestore : Obligations.NestedGuardsRestore := by
  unfold Obligations.NestedGuardsRestore
  intro f g inner s hnest _ hroom
  constructor
  · intro part hpart
    rw [execAll_cons (exec_csDisable_room (by omega))]
    exact hnest.holdsClear (by rw [guardOpened_gsp, guardOpened_cfg]; omega) (guardOpened_ie_same f s) hpart
  · have houter : guardRoom (Instr.csDisable f :: inner ++ [Instr.csRestore f]) = guardRoom inner + 1 :=
      (hnest.guardRoom_guard []).trans (Nat.max_eq_left (Nat.zero_le _))
    obtain ⟨t, ht, hst⟩ := (NestedGuards.guard hnest .none).restores (s := s) (by omega)
    exact ⟨t, ht, congrFun hst.ie f, congrFun hst.gstk f, congrFun hst.ie g, congrFun hst.gstk g⟩

end Sys2Proof.Machine

/-! ## The receive pipeline (42_receive.md) -/

namespace Sys2Proof.Machine

/-! ### A byte into and out of RXF -/

section
variable {w k : Nat} {f : RB w} {x : BitVec w} {xs : List (BitVec w)}

/-- FULL in terms of the buffered elements: one short of the array's size. -/
theorem RB.isFull_iff_contents (h : f.Wf k) : f.isFull k = true ↔ (f.contents k).length + 1 = 2 ^ k := by
  rw [RB.isFull_iff h, RB.contents_length]

theorem RB.isEmpty_of_cons (h : f.Wf k) (hc : f.contents k = x :: xs) : f.isEmpty = false := by
  rw [Bool.eq_false_iff, ne_eq, RB.isEmpty_iff_contents h, hc]
  exact List.cons_ne_nil x xs

/-- A read takes the head of the buffered elements and leaves the tail. -/
theorem RB.read_cons (h : f.Wf k) (hc : f.contents k = x :: xs) :
    (f.read k).1 = x ∧ (f.read k).2.contents k = xs :=
  List.cons.inj ((RB.contents_read h (RB.isEmpty_of_cons h hc)).symm.trans hc)

/-- The ring buffer after `n` reads. -/
def RB.skip (k : Nat) : Nat → RB w → RB w
  | 0, f => f
  | n + 1, f => RB.skip k n (f.read k).2

theorem RB.skip_wf (h : f.Wf k) (n : Nat) : (f.skip k n).Wf k := by
  induction n generalizing f with
  | zero => exact h
  | succ n ih => exact ih (RB.read_wf h)

theorem RB.contents_read_tail (h : f.Wf k) : (f.read k).2.contents k = (f.contents k).tail := by
  cases hc : f.contents k with
  | nil => rw [RB.read_empty ((RB.isEmpty_iff_contents h).mpr hc), hc, List.tail_nil]
  | cons x xs => exact (RB.read_cons h hc).2

theorem RB.contents_skip (h : f.Wf k) (n : Nat) : (f.skip k n).contents k = (f.contents k).drop n := by
  induction n generalizing f with
  | zero => rfl
  | succ n ih => rw [RB.skip, ih (RB.read_wf h), RB.contents_read_tail h, List.drop_tail]

end

section
variable {s : State}

theorem exec_rxIsr_full (h : s.rxf.isFull s.cfg.rxK = true) :
    exec .rxIsr s = .next { s with rxc := false, rxDropped := s.rxDropped + 1 } := if_pos h

theorem exec_rxIsr_room (h : s.rxf.isFull s.cfg.rxK = false) :
    exec .rxIsr s = .next { s with
      rxc := false, rxf := (s.rxf.write s.cfg.rxK s.rxdr).2,
      nlcnt := if s.rxdr = newline then s.nlcnt + 1 else s.nlcnt } := by
  simp [exec, execRxIsr, h, countNewline_eq]

end

/-- Settles O15: RXF is full or has room, and `RB.contents_write` says what a write that finds room appends. -/
theorem rxIsrPushesOrDrops : Obligations.RxIsrPushesOrDrops := by
  unfold Obligations.RxIsrPushesOrDrops
  intro s hwf
  rw [← RB.isFull_iff_contents hwf]
  refine ⟨exec_rxIsr_full, fun hroom => ?_⟩
  have hfull : s.rxf.isFull s.cfg.rxK = false := Bool.eq_false_iff.mpr (mt (RB.isFull_iff_contents hwf).mp hroom)
  exact ⟨_, RB.write_wf hwf _, RB.contents_write hwf hfull _, exec_rxIsr_room hfull⟩

/-! ### The steps of RX_AVAIL and RX_LINE_AVAIL (R142, R143) -/

section
variable {s : State}

theorem exec_rxAvail_l0 (hl : s.loc.label = .l0) :
    exec .rxAvail s = .next { s with rxie := false, loc := { s.loc with p := s.rxie, label := .l1 } } := by
  simp only [exec, execRxAvail, hl]
  rfl

theorem exec_rxAvail_l1 (hl : s.loc.label = .l1) :
    exec .rxAvail s = .next { s with loc := { s.loc with cnt := s.rxf.count s.cfg.rxK, label := .l2 } } := by
  simp only [exec, execRxAvail, hl]
  rfl

theorem exec_rxAvail_l2 (hl : s.loc.label = .l2) :
    exec .rxAvail s = .next { s with rxie := s.loc.p, res := BitVec.ofNat 16 s.loc.cnt, loc.busy := false } := by
  conv_lhs => simp only [exec, execRxAvail, hl]
  rfl

end

/-- Settles O16: the three labels, COUNT's mask being the remainder (R109). -/
theorem rxAvailSteps : Obligations.RxAvailSteps := by
  unfold Obligations.RxAvailSteps
  intro s
  rw [mask_eq_mod]
  exact ⟨exec_rxAvail_l0, exec_rxAvail_l1, exec_rxAvail_l2⟩

/-- Settles O18: the flag in RES is NLCNT's test. -/
theorem rxLineAvailTestsNewlineCount : Obligations.RxLineAvailTestsNewlineCount := by
  unfold Obligations.RxLineAvailTestsNewlineCount
  intro s
  have hflag : bit16 (s.nlcnt != 0) = if s.nlcnt = 0 then 0 else 1 := by
    rw [bit16_eq_ite (p := s.nlcnt ≠ 0) bne_iff_ne, ite_not]
  rw [← hflag]
  rfl

/-! ### The shared steps of the reads (R144), case by case -/

theorem raiseFault_clear {s : State} (h : s.fcause = 0) (c : Cause) (a : Half) :
    raiseFault c a s = { s with fcause := c.code, fword := s.loc.cur0, faddr := a } := if_pos h

/-- The state after the enter step of a read (R145): the operands, an empty count and the guard. -/
def readEntered (a n : Half) (t : Byte) (next : Label) (s : State) : State :=
  { s with
    rxie := false,
    loc := { s.loc with
      addr := a, term := t, cnt := 0, mode := modeOf t, lim := limitOf t n, p := s.rxie, label := next } }

/-- The state after the oldest byte `c` of RXF is consumed, and uncounted if it is a newline (R146). -/
def byteTaken (c : Byte) (s : State) : State :=
  { s with
    rxf := (s.rxf.read s.cfg.rxK).2
    nlcnt := if c = newline then s.nlcnt - 1 else s.nlcnt
    loc.c := c }

/-- The state after that byte is stored as byte CNT of the buffer. -/
def byteStored (c : Byte) (s : State) : State :=
  { byteTaken c s with
    data := s.data.write (bufferByte s.loc.addr s.loc.cnt) c
    loc := { s.loc with c := c, cnt := (s.loc.cnt + 1) % 65536 } }

section
variable {a n : Half} {t : Byte} {again out : Label} {s : State}

theorem readUntilEnter_of_room (h : ¬ (t ≠ 0 ∧ n = 0)) :
    readUntilEnter a n t again s = readEntered a n t again s := if_neg h

theorem readUntilEnter_noRoom (ht : t ≠ 0) (hn : n = 0) :
    readUntilEnter a n t again s = raiseFault .usageFault 0 s := if_pos ⟨ht, hn⟩

/-- The drain stops at the limit, and on an empty RXF. -/
theorem readUntilPass_stop (hwf : RB.Wf s.cfg.rxK s.rxf)
    (h : s.loc.cnt = s.loc.lim.toNat ∨ s.rxf.contents s.cfg.rxK = []) :
    readUntilPass again out s = goto out s :=
  if_pos (h.imp_right (RB.isEmpty_iff_contents hwf).mpr)

section
variable {c : Byte} {rest : List Byte} (hwf : RB.Wf s.cfg.rxK s.rxf) (hlim : s.loc.cnt ≠ s.loc.lim.toNat)
  (hc : s.rxf.contents s.cfg.rxK = c :: rest)
include hwf hlim hc

/-- Below the limit a pass consumes the oldest byte: it is the terminator, or is stored, or its store faults. -/
theorem readUntilPass_cons :
    ((s.loc.mode = .string ∧ c = s.loc.term) ∧ readUntilPass again out s = goto out (byteTaken c s)) ∨
      (¬ (s.loc.mode = .string ∧ c = s.loc.term) ∧
        ((bufferByte s.loc.addr s.loc.cnt ≤ topAddress ∧
            readUntilPass again out s = goto again (byteStored c s)) ∨
          (topAddress < bufferByte s.loc.addr s.loc.cnt ∧
            readUntilPass again out s =
              raiseFault .accessFault (BitVec.ofNat 16 (bufferByte s.loc.addr s.loc.cnt)) (byteTaken c s)))) := by
  have hne := RB.isEmpty_of_cons hwf hc
  obtain ⟨hread, -⟩ := RB.read_cons hwf hc
  have hcases := readUntilPass_cases again out s
  rw [hread] at hcases
  rcases hcases with ⟨hstop, -⟩ | ⟨-, -, ⟨hm, ht, e⟩ | ⟨hnt, ha, e⟩ | ⟨hnt, ha, e⟩⟩
  · exact absurd hstop (by simp [hlim, hne])
  · exact .inl ⟨⟨hm, ht⟩, e⟩
  · exact .inr ⟨hnt, .inl ⟨ha, e⟩⟩
  · exact .inr ⟨hnt, .inr ⟨ha, e⟩⟩

/-- The terminator ends the drain and is not stored. -/
theorem readUntilPass_terminator (hm : s.loc.mode = .string) (ht : c = s.loc.term) :
    readUntilPass again out s = goto out (byteTaken c s) := by
  rcases readUntilPass_cons hwf hlim hc with ⟨-, e⟩ | ⟨hnt, -⟩
  · exact e
  · exact absurd ⟨hm, ht⟩ hnt

/-- A byte for an address of DATA is stored there, and the drain goes on. -/
theorem readUntilPass_store (hl : s.loc.label = again) (hnt : ¬ (s.loc.mode = .string ∧ c = s.loc.term))
    (ha : bufferByte s.loc.addr s.loc.cnt ≤ topAddress) : readUntilPass again out s = byteStored c s := by
  subst hl
  rcases readUntilPass_cons hwf hlim hc with ⟨ht, -⟩ | ⟨-, ⟨-, e⟩ | ⟨hpast, -⟩⟩
  · exact absurd ht hnt
  · exact e
  · exact absurd ha (Nat.not_le.mpr hpast)

/-- A byte for an address past the top of DATA is consumed and lost, and the step faults (R205). -/
theorem readUntilPass_fault (hnt : ¬ (s.loc.mode = .string ∧ c = s.loc.term))
    (hpast : topAddress < bufferByte s.loc.addr s.loc.cnt) :
    readUntilPass again out s =
      raiseFault .accessFault (BitVec.ofNat 16 (bufferByte s.loc.addr s.loc.cnt)) (byteTaken c s) := by
  rcases readUntilPass_cons hwf hlim hc with ⟨ht, -⟩ | ⟨-, ⟨ha, -⟩ | ⟨-, e⟩⟩
  · exact absurd ht hnt
  · exact absurd ha (Nat.not_le.mpr hpast)
  · exact e

end

theorem readUntilExit_binary (hm : s.loc.mode = .binary) :
    readUntilExit s = .ok { s with rxie := s.loc.p, res := BitVec.ofNat 16 s.loc.cnt } := by
  simp only [readUntilExit, hm]
  rfl

/-- The null of string mode at an address of DATA (R147). -/
theorem readUntilExit_null (hm : s.loc.mode = .string) (ha : bufferByte s.loc.addr s.loc.cnt ≤ topAddress) :
    readUntilExit s = .ok { s with
      data := s.data.write (bufferByte s.loc.addr s.loc.cnt) 0, rxie := s.loc.p,
      res := BitVec.ofNat 16 s.loc.cnt } := by
  rcases readUntilExit_cases s with ⟨hb, -⟩ | ⟨-, -, e⟩ | ⟨-, hpast, -⟩
  · exact absurd (hm.symm.trans hb) (by decide)
  · exact e
  · exact absurd ha (Nat.not_le.mpr hpast)

/-- The null of string mode past the top of DATA. -/
theorem readUntilExit_fault (hm : s.loc.mode = .string) (hpast : topAddress < bufferByte s.loc.addr s.loc.cnt) :
    readUntilExit s = .error (raiseFault .accessFault (BitVec.ofNat 16 (bufferByte s.loc.addr s.loc.cnt)) s) := by
  rcases readUntilExit_cases s with ⟨hb, -⟩ | ⟨-, ha, -⟩ | ⟨-, -, e⟩
  · exact absurd (hm.symm.trans hb) (by decide)
  · exact absurd ha (Nat.not_le.mpr hpast)
  · exact e

/-! ### The steps of RX_READ_UNTIL (R144) -/

theorem exec_rxReadUntil_enter (hl : s.loc.label = .l0) :
    exec (.rxReadUntil a n t) s = .next (readUntilEnter a n t .l1 s) := by
  simp only [exec, execRxReadUntil, hl]

theorem exec_rxReadUntil_pass (hl : s.loc.label = .l1) :
    exec (.rxReadUntil a n t) s = .next (readUntilPass .l1 .l2 s) := by
  simp only [exec, execRxReadUntil, hl]

theorem exec_rxReadUntil_exit {u : State} (hl : s.loc.label = .l2) (he : readUntilExit s = .ok u) :
    exec (.rxReadUntil a n t) s = .next { u with loc.busy := false } := by
  simp only [exec, execRxReadUntil, hl, he]
  rfl

theorem exec_rxReadUntil_exit_fault {u : State} (hl : s.loc.label = .l2) (he : readUntilExit s = .error u) :
    exec (.rxReadUntil a n t) s = .next u := by
  simp only [exec, execRxReadUntil, hl, he]

end

/-- Settles O19: the terminator is 0 or not, and with another terminator n is 0 or not. -/
theorem readUntilEnters : Obligations.ReadUntilEnters := by
  unfold Obligations.ReadUntilEnters
  intro a n t s hl
  rw [exec_rxReadUntil_enter hl]
  refine ⟨fun ht => ?_, fun ht hn => ?_, fun ht hn hclear => ?_⟩
  · subst ht
    rw [readUntilEnter_of_room (by simp)]
    rfl
  · rw [readUntilEnter_of_room (fun h => hn h.2), readEntered, modeOf, limitOf, if_neg ht, if_neg ht]
  · rw [readUntilEnter_noRoom ht hn, raiseFault_clear hclear]
    rfl

/-- Settles O20: one pass, by what stands at the head of RXF and where the byte is to go. -/
theorem readUntilDrainsOneByte : Obligations.ReadUntilDrainsOneByte := by
  unfold Obligations.ReadUntilDrainsOneByte
  intro a n t s hl hwf hmem
  rw [exec_rxReadUntil_pass hl]
  refine ⟨fun hstop => by rw [readUntilPass_stop hwf hstop, goto], fun c rest hlim hc => ?_⟩
  refine ⟨_, RB.read_wf hwf, (RB.read_cons hwf hc).2, fun hm ht => ?_, fun hnt ha => ?_, fun hnt hpast hclear => ?_⟩
  · rw [readUntilPass_terminator hwf hlim hc hm ht]
    rfl
  · exact ⟨_, Memory.read_write_same hmem _ _, fun x hx => Memory.read_write_other _ _ hx,
      congrArg _ (readUntilPass_store hwf hlim hc hl hnt ha)⟩
  · rw [readUntilPass_fault hwf hlim hc hnt hpast, raiseFault_clear (s := byteTaken c s) hclear]
    rfl

/-- Settles O21: binary mode stores nothing; the null of string mode is stored, or its store faults. -/
theorem readUntilExits : Obligations.ReadUntilExits := by
  unfold Obligations.ReadUntilExits
  intro a n t s hl hmem
  refine ⟨fun hm => exec_rxReadUntil_exit hl (readUntilExit_binary hm), fun hm ha => ?_, fun hm hpast hclear => ?_⟩
  · exact ⟨_, Memory.read_write_same hmem _ _, fun x hx => Memory.read_write_other _ _ hx,
      exec_rxReadUntil_exit hl (readUntilExit_null hm ha)⟩
  · rw [exec_rxReadUntil_exit_fault hl (readUntilExit_fault hm hpast), raiseFault_clear hclear]
    rfl

/-! ### The steps of RX_READ_EXACT (R150) -/

section
variable {a n : Half} {s : State}

theorem exec_rxReadExact_l0 (hl : s.loc.label = .l0) :
    exec (.rxReadExact a n) s = .next { s with
      rxie := false, loc := { s.loc with addr := a, len := n, p2 := s.rxie, label := .l1 } } := by
  simp only [exec, execRxReadExact, hl]
  rfl

theorem exec_rxReadExact_l1 (hl : s.loc.label = .l1) :
    exec (.rxReadExact a n) s = .next { s with
      loc := { s.loc with cnt := s.rxf.count s.cfg.rxK, label := .l2 } } := by
  simp only [exec, execRxReadExact, hl]
  rfl

theorem exec_rxReadExact_l2 (hl : s.loc.label = .l2) :
    exec (.rxReadExact a n) s = .next { s with
      rxie := s.loc.p2, loc.label := if s.loc.cnt < s.loc.len.toNat then .l0 else .l3r0 } := by
  simp only [exec, execRxReadExact, hl]
  rfl

theorem exec_rxReadExact_enter (hl : s.loc.label = .l3r0) :
    exec (.rxReadExact a n) s = .next (readUntilEnter s.loc.addr s.loc.len 0 .l3r1 s) := by
  simp only [exec, execRxReadExact, hl]

theorem exec_rxReadExact_pass (hl : s.loc.label = .l3r1) :
    exec (.rxReadExact a n) s = .next (readUntilPass .l3r1 .l3r2 s) := by
  simp only [exec, execRxReadExact, hl]

/-- The last step: RES, first CNT, is whether CNT is LEN. -/
theorem exec_rxReadExact_exit (hl : s.loc.label = .l3r2) (hm : s.loc.mode = .binary) :
    exec (.rxReadExact a n) s = .next { s with
      rxie := s.loc.p, res := if s.loc.cnt = s.loc.len.toNat then 1 else 0, loc.busy := false } := by
  rw [← bit16_eq_ite (b := s.loc.cnt == s.loc.len.toNat) beq_iff_eq]
  conv_lhs => simp only [exec, execRxReadExact, hl, readUntilExit_binary hm]
  rfl

/-- The last step once LEN bytes are stored. -/
theorem exec_rxReadExact_complete (hl : s.loc.label = .l3r2) (hm : s.loc.mode = .binary)
    (hcnt : s.loc.cnt = s.loc.len.toNat) :
    exec (.rxReadExact a n) s = .next { s with rxie := s.loc.p, res := 1, loc.busy := false } := by
  rw [exec_rxReadExact_exit hl hm, if_pos hcnt]

end

/-- Settles O25: the steps of the poll, then those of L3, which are the steps of RX_READ_UNTIL in binary mode. -/
theorem exactReadSteps : Obligations.ExactReadSteps := by
  unfold Obligations.ExactReadSteps
  intro a n s
  rw [mask_eq_mod]
  refine ⟨exec_rxReadExact_l0, exec_rxReadExact_l1, exec_rxReadExact_l2, exec_rxReadExact_enter,
    fun hl hwf hstop => ?_, fun c rest hl hwf hmem hm hlim hc => ?_, exec_rxReadExact_exit⟩
  · rw [exec_rxReadExact_pass hl, readUntilPass_stop hwf hstop, goto]
  · have hnt : ¬ (s.loc.mode = .string ∧ c = s.loc.term) := by simp [hm]
    rw [exec_rxReadExact_pass hl]
    refine ⟨_, RB.read_wf hwf, (RB.read_cons hwf hc).2, fun ha => ?_, fun hpast hclear => ?_⟩
    · exact ⟨_, Memory.read_write_same hmem _ _, fun x hx => Memory.read_write_other _ _ hx,
        congrArg _ (readUntilPass_store hwf hlim hc hl hnt ha)⟩
    · rw [readUntilPass_fault hwf hlim hc hnt hpast, raiseFault_clear (s := byteTaken c s) hclear]
      rfl

/-- Settles O27: at the last step the invariant has binary mode and CNT = LEN. -/
theorem exactReadReturnsOne : Obligations.ExactReadReturnsOne := by
  unfold Obligations.ExactReadReturnsOne
  intro a n s hinv hclear hr hl
  obtain ⟨-, -, -, -, hlast⟩ := hinv.exactRead a n hclear hr
  obtain ⟨hm, hcnt⟩ := hlast hl
  exact ⟨_, exec_rxReadExact_complete hl hm hcnt, rfl, rfl, rfl⟩

/-! ### The transitions of the other agents -/

/-- No other agent writes the parameters, agent M's micro-state, FCAUSE or RES. -/
theorem fire_keeps_agentM {u : Turn} {s t : State} (hu : u ≠ .m) (h : fire u s = .next t) :
    t.cfg = s.cfg ∧ t.loc = s.loc ∧ t.fcause = s.fcause ∧ t.res = s.res := by
  cases u with
  | m => exact absurd rfl hu
  | i f =>
    cases f with
    | rx =>
      obtain ⟨_, _, _, rfl⟩ := rxIsr_frame h
      exact ⟨rfl, rfl, rfl, rfl⟩
    | tx =>
      obtain ⟨_, _, _, _, rfl⟩ := txIsr_frame h
      exact ⟨rfl, rfl, rfl, rfl⟩
  | e f =>
    cases f with
    | rx =>
      cases h
      obtain ⟨_, _, _, _, he⟩ := eRx_frame s
      rw [he]
      exact ⟨rfl, rfl, rfl, rfl⟩
    | tx =>
      cases h
      exact ⟨rfl, rfl, rfl, rfl⟩
  | test =>
    rw [tStep_frame h]
    exact ⟨rfl, rfl, rfl, rfl⟩

/-- The command in progress is a matter of the parameters and agent M's micro-state. -/
theorem running_congr {s t : State} (hcfg : t.cfg = s.cfg) (hloc : t.loc = s.loc) : running t = running s := by
  simp only [running, decodeCurrent, hcfg, hloc]

/-! ### The poll of a length past RXF's capacity (R151) -/

/-- A step of agent M keeps the poll of more than RXF can hold at its three labels, and writes neither RES nor
FCAUSE. -/
theorem exactPoll_stays {a n : Half} {s t : State} (hinv : Invariant s) (hr : running s = some (.rxReadExact a n))
    (hn : 2 ^ s.cfg.rxK - 1 < n.toNat) (hclear : s.fcause = 0) (hl : s.loc.label ∈ [Label.l0, .l1, .l2])
    (he : exec (.rxReadExact a n) s = .next t) :
    running t = some (.rxReadExact a n) ∧ t.cfg = s.cfg ∧ t.fcause = 0 ∧
      t.loc.label ∈ [Label.l0, .l1, .l2] ∧ t.res = s.res := by
  simp only [List.mem_cons, List.not_mem_nil, or_false] at hl
  rcases hl with hl | hl | hl
  · cases (exec_rxReadExact_l0 hl).symm.trans he
    exact ⟨hr, rfl, hclear, by simp, rfl⟩
  · cases (exec_rxReadExact_l1 hl).symm.trans he
    exact ⟨hr, rfl, hclear, by simp, rfl⟩
  · cases (exec_rxReadExact_l2 hl).symm.trans he
    obtain ⟨hop, hcnt, -⟩ := hinv.exactRead a n hclear hr
    obtain ⟨-, hlen⟩ := hop (by simp [hl])
    have hcap := RB.count_lt hinv.rxf
    have hshort : s.loc.cnt < s.loc.len.toNat := by
      have := hcnt hl
      rw [hlen]
      omega
    exact ⟨hr, rfl, hclear, by simp [hshort], rfl⟩

/-- Settles O28: agent M's step keeps the poll, since COUNT never reaches n, and no other agent touches it. -/
theorem exactReadHangsBeyondCapacity : Obligations.ExactReadHangsBeyondCapacity := by
  unfold Obligations.ExactReadHangsBeyondCapacity
  intro a n s s' hinv hr hn hclear hl hstep
  obtain ⟨u, -, hf⟩ := step_cases hstep
  by_cases hu : u = .m
  · subst hu
    exact exactPoll_stays (s := tick s) hinv.tick hr hn hclear hl ((mStep_running (s := tick s) hr).symm.trans hf)
  · obtain ⟨hcfg, hloc, hfc, hres⟩ := fire_keeps_agentM hu hf
    exact ⟨(running_congr hcfg hloc).trans hr, hcfg, hfc.trans hclear, hloc.symm ▸ hl, hres⟩

/-! ### Agent M alone -/

/-- Agent M has a step, and it is a step of command `i`. -/
structure Executing (i : Instr) (s : State) : Prop where
  accepted : s.cfg.blockOk = true
  clear : s.fcause = 0
  running : running s = some i

theorem Executing.runTurns_cons {i : Instr} {s t : State} {ts : List Turn} {r : Option State} (h : Executing i s)
    (he : exec i s = .next t) (hr : runTurns ts t = r) : runTurns (.m :: ts) s = r := by
  have hen : s.enabled .m = true := enabled_m.mpr ⟨h.accepted, h.clear, .inl (running_eq_some.mp h.running).1⟩
  have hf : fire .m s = .next t := (mStep_running h.running).trans he
  simp only [runTurns, if_pos hen, hf, hr]

/-- Settles O17: the three steps one after another; the last restores what the first captured. -/
theorem rxAvailReturnsCount : Obligations.RxAvailReturnsCount := by
  unfold Obligations.RxAvailReturnsCount
  intro s hok hclear hr hl
  have h : Executing .rxAvail s := ⟨hok, hclear, hr⟩
  refine ⟨{ s.loc with p := s.rxie, cnt := s.rxf.count s.cfg.rxK, label := .l2, busy := false }, rfl, ?_⟩
  rw [RB.contents_length]
  refine h.runTurns_cons (exec_rxAvail_l0 hl) ?_
  refine Executing.runTurns_cons { h with } (exec_rxAvail_l1 rfl) ?_
  exact Executing.runTurns_cons { h with } (exec_rxAvail_l2 rfl) rfl

/-! ### A list of bytes stored from an address on -/

/-- The memory after the bytes are stored, one after another, from address `a` on. -/
def Memory.writeAll : Memory → Nat → List Byte → Memory
  | m, _, [] => m
  | m, a, x :: xs => (m.write a x).writeAll (a + 1) xs

section
variable {m : Memory} {a : Nat} {xs : List Byte}

theorem Memory.read_writeAll_outside {x : Nat} (h : x < a ∨ a + xs.length ≤ x) :
    (m.writeAll a xs).read x = m.read x := by
  induction xs generalizing m a with
  | nil => rfl
  | cons v xs ih =>
    rw [List.length_cons] at h
    rw [Memory.writeAll, ih (by omega), Memory.read_write_other m v (by omega)]

theorem Memory.wf_writeAll (hm : m.wf = true) (h : a + xs.length ≤ 0x10000) : (m.writeAll a xs).wf = true := by
  induction xs generalizing m a with
  | nil => exact hm
  | cons v xs ih =>
    rw [List.length_cons] at h
    exact ih (Memory.wfFrom_write hm (Nat.zero_le a) (by unfold topAddress; omega) v) (by omega)

theorem Memory.read_writeAll_inside (hm : m.wf = true) (h : a + xs.length ≤ 0x10000) {i : Nat} (hi : i < xs.length) :
    xs[i]? = some ((m.writeAll a xs).read (a + i)) := by
  induction xs generalizing m a i with
  | nil => exact absurd hi (Nat.not_lt_zero i)
  | cons v xs ih =>
    rw [List.length_cons] at h hi
    have hm' : (m.write a v).wf = true :=
      Memory.wfFrom_write hm (Nat.zero_le a) (by unfold topAddress; omega) v
    cases i with
    | zero =>
      have hout : ((m.write a v).writeAll (a + 1) xs).read a = v := by
        rw [Memory.read_writeAll_outside (.inl (Nat.lt_add_one a)), Memory.read_write_same hm]
      exact congrArg some hout.symm
    | succ i =>
      rw [Memory.writeAll, List.getElem?_cons_succ, Nat.add_comm i 1, ← Nat.add_assoc]
      exact ih hm' (by omega) (by omega)

end

/-! ### The drain of a read -/

/-- The state after a drain has consumed and stored the bytes `xs` of RXF. -/
def drained (xs : List Byte) (s : State) : State :=
  { s with
    rxf := s.rxf.skip s.cfg.rxK xs.length
    nlcnt := s.nlcnt - BitVec.ofNat 8 (xs.count newline)
    data := s.data.writeAll (bufferByte s.loc.addr s.loc.cnt) xs
    loc := { s.loc with c := xs.getLastD s.loc.c, cnt := xs.length + s.loc.cnt } }

theorem drained_nil (s : State) : drained [] s = s := by
  simp [drained, RB.skip, Memory.writeAll]

/-- Storing one byte and then the others is storing them all. -/
theorem drained_byteStored {c : Byte} {s : State} (hc : s.loc.cnt + 1 < 65536) (xs : List Byte) :
    drained xs (byteStored c s) = drained (c :: xs) s := by
  have hnl : (if c = newline then s.nlcnt - 1 else s.nlcnt) - BitVec.ofNat 8 (xs.count newline) =
      s.nlcnt - BitVec.ofNat 8 ((c :: xs).count newline) := by
    rw [List.count_cons]
    by_cases h : c = newline
    · simp only [h, beq_self_eq_true, if_true]
      bv_omega
    · simp only [h, if_false, beq_iff_eq, Nat.add_zero]
  have hcnt : (s.loc.cnt + 1) % 65536 = s.loc.cnt + 1 := Nat.mod_eq_of_lt hc
  have hlen : xs.length + (s.loc.cnt + 1) = xs.length + 1 + s.loc.cnt := by omega
  simp only [drained, byteStored, byteTaken, hnl, hcnt, hlen, List.getLastD_cons, List.length_cons, RB.skip,
    Memory.writeAll, bufferByte, Nat.add_assoc s.loc.addr.toNat]

section
variable {i : Instr} {again out : Label} {s : State} {xs rest : List Byte} {ts : List Turn} {r : Option State}

/-- A command whose step at label `again` is a pass of the drain copies the bytes before the limit and before any
terminator, one byte a step. -/
theorem Executing.drain (h : Executing i s)
    (hpass : ∀ u : State, u.loc.label = again → exec i u = .next (readUntilPass again out u))
    (hl : s.loc.label = again) (hwf : RB.Wf s.cfg.rxK s.rxf) (hc : s.rxf.contents s.cfg.rxK = xs ++ rest)
    (hlim : s.loc.cnt + xs.length ≤ s.loc.lim.toNat) (htop : bufferByte s.loc.addr s.loc.cnt + xs.length ≤ 0x10000)
    (hterm : s.loc.mode = .string → s.loc.term ∉ xs) (hr : runTurns ts (drained xs s) = r) :
    runTurns (List.replicate xs.length .m ++ ts) s = r := by
  induction xs generalizing s with
  | nil => rwa [drained_nil] at hr
  | cons x xs ih =>
    rw [List.length_cons] at hlim htop
    have hlt := s.loc.lim.isLt
    have hnt : ¬ (s.loc.mode = .string ∧ x = s.loc.term) := fun ⟨hm, hx⟩ => hterm hm (by simp [hx])
    have hstep : exec i s = .next (byteStored x s) := by
      rw [hpass s hl, readUntilPass_store hwf (by omega) hc hl hnt (by unfold topAddress; omega)]
    have hcnt : (byteStored x s).loc.cnt = s.loc.cnt + 1 := Nat.mod_eq_of_lt (by omega)
    rw [← drained_byteStored (by omega)] at hr
    rw [List.length_cons, List.replicate_succ, List.cons_append]
    refine h.runTurns_cons hstep (ih { h with } hl (RB.read_wf hwf) (RB.read_cons hwf hc).2 ?_ ?_ ?_ hr)
    · rw [hcnt]
      exact (Nat.add_right_comm _ _ _).trans_le hlim
    · rw [hcnt]
      exact (show s.loc.addr.toNat + (s.loc.cnt + 1) + xs.length ≤ 0x10000 by unfold bufferByte at htop; omega)
    · exact fun hm hmem => hterm hm (List.mem_cons_of_mem x hmem)

variable {a n : Half}

theorem replicate_add_three {α : Type} (k : Nat) (x : α) :
    List.replicate (k + 3) x = x :: (List.replicate k x ++ [x, x]) := by
  rw [List.replicate_succ, List.replicate_add]
  rfl

/-- A whole read in binary mode: the enter step, the drain to the limit or to the end of RXF, the pass that stops it and
the exit step. -/
theorem Executing.binaryRead {t : State} (h : Executing i s)
    (henter : exec i s = .next (readUntilEnter a n 0 again s))
    (hpass : ∀ u : State, u.loc.label = again → exec i u = .next (readUntilPass again out u))
    (hwf : RB.Wf s.cfg.rxK s.rxf) (hc : s.rxf.contents s.cfg.rxK = xs ++ rest) (hn : xs.length ≤ n.toNat)
    (hstop : xs.length = n.toNat ∨ rest = []) (htop : a.toNat + xs.length ≤ 0x10000)
    (hexit : exec i (goto out (drained xs (readEntered a n 0 again s))) = .next t) :
    runTurns (List.replicate (xs.length + 3) .m) s = some t := by
  rw [readUntilEnter_of_room (by simp)] at henter
  have hdrop : (s.rxf.skip s.cfg.rxK xs.length).contents s.cfg.rxK = rest := by
    rw [RB.contents_skip hwf, hc, List.drop_left]
  have hlast : exec i (drained xs (readEntered a n 0 again s)) =
      .next (goto out (drained xs (readEntered a n 0 again s))) := by
    rw [hpass _ rfl, readUntilPass_stop (RB.skip_wf hwf _) (hstop.imp id hdrop.trans)]
  rw [replicate_add_three]
  refine h.runTurns_cons henter (Executing.drain { h with } hpass rfl hwf hc ?_ htop ?_ ?_)
  · exact (Nat.zero_add _).trans_le hn
  · exact fun hm => absurd (show Mode.binary = .string from hm) (by decide)
  · exact Executing.runTurns_cons { h with } hlast (Executing.runTurns_cons { h with } hexit rfl)

end

/-- What a read of the bytes `xs` leaves in RXF and in its buffer. -/
theorem readBuffer_spec {k : Nat} {f : RB 8} {m : Memory} {a : Nat} {xs rest : List Byte} (hwf : f.Wf k)
    (hm : m.wf = true) (hc : f.contents k = xs ++ rest) (htop : a + xs.length ≤ 0x10000) :
    (f.skip k xs.length).contents k = (f.contents k).drop xs.length ∧
      (∀ i, i < xs.length → (f.contents k)[i]? = some ((m.writeAll a xs).read (a + i))) ∧
      ∀ x, x < a ∨ a + xs.length ≤ x → (m.writeAll a xs).read x = m.read x := by
  refine ⟨RB.contents_skip hwf _, fun i hi => ?_, fun x hx => Memory.read_writeAll_outside hx⟩
  rw [hc, List.getElem?_append_left hi, Memory.read_writeAll_inside hm htop hi]

/-- Settles O22: `Executing.binaryRead`, with the first min(n, COUNT) bytes of RXF as the bytes moved. -/
theorem rxReadMovesMin : Obligations.RxReadMovesMin := by
  unfold Obligations.RxReadMovesMin
  intro a n s m hok hclear hr hl hwf hmem hm htop
  obtain ⟨xs, rest, hc, hxs⟩ : ∃ xs rest, s.rxf.contents s.cfg.rxK = xs ++ rest ∧ xs.length = m :=
    ⟨_, _, (List.take_append_drop m _).symm, List.length_take_of_le (by omega)⟩
  subst hxs
  have hlen : (s.rxf.contents s.cfg.rxK).length = xs.length + rest.length := by rw [hc, List.length_append]
  have hstop : xs.length = n.toNat ∨ rest = [] := by
    rw [← List.length_eq_zero_iff]
    omega
  have h : Executing (.rxReadUntil a n 0) s := ⟨hok, hclear, hr⟩
  obtain ⟨hdrop, hinside, houtside⟩ := readBuffer_spec hwf hmem hc htop
  refine ⟨_, _, { (goto .l2 (drained xs (readEntered a n 0 .l1 s))).loc with busy := false }, rfl,
    RB.skip_wf hwf _, hdrop, hinside, houtside, ?_⟩
  rw [hc, List.take_left]
  exact h.binaryRead (exec_rxReadUntil_enter hl) (fun _ => exec_rxReadUntil_pass) hwf hc (by omega) hstop htop
    (exec_rxReadUntil_exit rfl (readUntilExit_binary rfl))

/-! ### The whole RX_READ_EXACT -/

/-- The state after one round of the poll. -/
def exactPolled (a n : Half) (s : State) : State :=
  { s with loc := { s.loc with
      addr := a, len := n, p2 := s.rxie, cnt := s.rxf.count s.cfg.rxK,
      label := if s.rxf.count s.cfg.rxK < n.toNat then .l0 else .l3r0 } }

/-- One round of the poll, agent M alone: RXIE is as it was, and only the locals have changed. -/
theorem Executing.exactPoll {a n : Half} {s : State} {ts : List Turn} {r : Option State}
    (h : Executing (.rxReadExact a n) s) (hl : s.loc.label = .l0) (hr : runTurns ts (exactPolled a n s) = r) :
    runTurns (.m :: .m :: .m :: ts) s = r := by
  refine h.runTurns_cons (exec_rxReadExact_l0 hl) ?_
  refine Executing.runTurns_cons { h with } (exec_rxReadExact_l1 rfl) ?_
  exact Executing.runTurns_cons { h with } (exec_rxReadExact_l2 rfl) hr

/-- Settles O26: one round of the poll, then `Executing.binaryRead` with the first n bytes of RXF. -/
theorem exactReadCompletes : Obligations.ExactReadCompletes := by
  unfold Obligations.ExactReadCompletes
  intro a n s hok hclear hr hl hwf hmem hn htop
  obtain ⟨xs, rest, hc, hxs⟩ : ∃ xs rest, s.rxf.contents s.cfg.rxK = xs ++ rest ∧ xs.length = n.toNat :=
    ⟨_, _, (List.take_append_drop n.toNat _).symm, List.length_take_of_le hn⟩
  have hcount : ¬ s.rxf.count s.cfg.rxK < n.toNat := by
    rw [← RB.contents_length]
    omega
  have hlabel : (exactPolled a n s).loc.label = .l3r0 := if_neg hcount
  have h : Executing (.rxReadExact a n) s := ⟨hok, hclear, hr⟩
  rw [← hxs] at htop ⊢
  obtain ⟨hdrop, hinside, houtside⟩ := readBuffer_spec hwf hmem hc htop
  refine ⟨_, _, { (goto .l3r2 (drained xs (readEntered a n 0 .l3r1 (exactPolled a n s)))).loc with busy := false },
    rfl, RB.skip_wf hwf _, hdrop, hinside, houtside, ?_⟩
  rw [hc, List.take_left]
  exact h.exactPoll hl (Executing.binaryRead (s := exactPolled a n s) { h with } (exec_rxReadExact_enter hlabel)
    (fun _ => exec_rxReadExact_pass) hwf hc hxs.le (.inl hxs) htop (exec_rxReadExact_complete rfl rfl hxs))

/-! ### RX_READ_LINE -/

section
variable {a n : Half} {t : Byte} {s : State} {text rest : List Byte}

/-- The state in which a read in string mode has stored the bytes before the terminator and consumed the terminator. -/
def terminated (a n : Half) (t : Byte) (text : List Byte) (s : State) : State :=
  goto .l2 (byteTaken t (drained text (readEntered a n t .l1 s)))

/-- A whole read in string mode up to a terminator that stands before the reserved byte: the enter step, the drain, the
pass that consumes the terminator and the exit step with its null. -/
theorem Executing.stringRead (h : Executing (.rxReadUntil a n t) s) (hl : s.loc.label = .l0) (ht : t ≠ 0)
    (hwf : RB.Wf s.cfg.rxK s.rxf) (hc : s.rxf.contents s.cfg.rxK = text ++ t :: rest) (htext : t ∉ text)
    (hroom : text.length + 2 ≤ n.toNat) (htop : a.toNat + text.length ≤ topAddress) :
    runTurns (List.replicate (text.length + 3) .m) s = some { terminated a n t text s with
      data := (s.data.writeAll a.toNat text).write (a.toNat + text.length) 0, rxie := s.rxie,
      res := BitVec.ofNat 16 text.length, loc := { (terminated a n t text s).loc with busy := false } } := by
  have hmode : modeOf t = .string := if_neg ht
  have hlim : (limitOf t n).toNat = n.toNat - 1 := by
    rw [limitOf, if_neg ht]
    bv_omega
  have hdrop : (s.rxf.skip s.cfg.rxK text.length).contents s.cfg.rxK = t :: rest := by
    rw [RB.contents_skip hwf, hc, List.drop_left]
  have henter : exec (.rxReadUntil a n t) s = .next (readEntered a n t .l1 s) := by
    rw [exec_rxReadUntil_enter hl, readUntilEnter_of_room]
    rintro ⟨-, rfl⟩
    exact absurd hroom (by simp)
  have hbelow : text.length + 0 ≠ (limitOf t n).toNat := by omega
  have hlast : exec (.rxReadUntil a n t) (drained text (readEntered a n t .l1 s)) =
      .next (terminated a n t text s) := by
    rw [exec_rxReadUntil_pass rfl, readUntilPass_terminator (RB.skip_wf hwf _) hbelow hdrop hmode rfl]
    rfl
  have hexit := exec_rxReadUntil_exit (a := a) (n := n) (t := t) (s := terminated a n t text s) rfl
    (readUntilExit_null hmode htop)
  rw [replicate_add_three]
  refine h.runTurns_cons henter (Executing.drain { h with } (fun _ => exec_rxReadUntil_pass) rfl hwf hc ?_ ?_ ?_ ?_)
  · exact (Nat.zero_add _).trans_le (by rw [show (readEntered a n t .l1 s).loc.lim = limitOf t n from rfl]; omega)
  · exact htop.trans (by decide)
  · exact fun _ => htext
  · exact Executing.runTurns_cons { h with } hlast (Executing.runTurns_cons { h with } hexit rfl)

end

/-- Settles O23: `Executing.stringRead` with the newline as the terminator, which no byte of the text is. -/
theorem rxReadLineReturnsLine : Obligations.RxReadLineReturnsLine := by
  unfold Obligations.RxReadLineReturnsLine
  intro a n s text rest hok hclear hr hl hwf hmem hc htext hroom htop
  have h : Executing (.rxReadUntil a n newline) s := ⟨hok, hclear, hr⟩
  have hwf' := RB.skip_wf hwf text.length
  have hmem' := Memory.wf_writeAll (a := a.toNat) (xs := text) hmem (by omega)
  have hdrop : (s.rxf.skip s.cfg.rxK text.length).contents s.cfg.rxK = newline :: rest := by
    rw [RB.contents_skip hwf, hc, List.drop_left]
  have hnl : (terminated a n newline text s).nlcnt = s.nlcnt - 1 := by
    have hcount : text.count newline = 0 := List.count_eq_zero_of_not_mem htext
    simp only [terminated, goto, byteTaken, drained, hcount, if_true]
    exact congrArg (· - 1) (BitVec.sub_zero s.nlcnt)
  refine ⟨_, (s.data.writeAll a.toNat text).write (a.toNat + text.length) 0,
    { (terminated a n newline text s).loc with busy := false }, rfl, RB.read_wf hwf', (RB.read_cons hwf' hdrop).2,
    fun i hi => ?_, Memory.read_write_same hmem' _ _, fun x hx => ?_, ?_⟩
  · rw [Memory.read_write_other _ _ (by omega)]
    exact Memory.read_writeAll_inside hmem (by omega) hi
  · rw [Memory.read_write_other _ _ (by omega), Memory.read_writeAll_outside (by omega)]
  · rw [← hnl]
    exact h.stringRead hl (by decide) hwf hc htext hroom htop

/-- RX_READ_LINE with n = 2 about to start on "a" and a newline, which is exactly the n-th byte. -/
def lineOfExactlyN : State := Tests.busyAt (.rxReadUntil 0x0100 2 0x0A) .l0 (Tests.received [0x61, 0x0A] 1)

/-- Agent M alone leaves the newline in RXF: the command ends after four steps, and there is no fifth. -/
theorem lineOfExactlyN_runs :
    (∀ k < 5, ∀ t ∈ runTurns (List.replicate k .m) lineOfExactlyN,
        t.loc.busy = false → t.rxf.contents 3 = [newline]) ∧
      runTurns (List.replicate 5 .m) lineOfExactlyN = none := by
  decide

theorem runTurns_append (ts us : List Turn) (s : State) :
    runTurns (ts ++ us) s = (runTurns ts s).bind (runTurns us) := by
  induction ts generalizing s with
  | nil => rfl
  | cons u ts ih =>
    simp only [List.cons_append, runTurns, ih]
    split_ifs
    · cases fire u s <;> rfl
    · rfl

/-- Refutes O24: in `lineOfExactlyN` the newline is the second of n = 2 bytes, and the limit n - 1 is tested before
it. -/
theorem not_readLineConsumesNewlineAmongFirstN : ¬ Obligations.ReadLineConsumesNewlineAmongFirstN := by
  unfold Obligations.ReadLineConsumesNewlineAmongFirstN
  intro h
  obtain ⟨hok, hclear, hr, hl, hinv, hc, htext, htwo, hlen, htop⟩ :=
    Tests.witness_ReadLineConsumesNewlineAmongFirstN
  obtain ⟨k, t, hrun, hidle, hrest⟩ :=
    h 0x0100 2 lineOfExactlyN [0x61] [] hok hclear hr hl hinv hc htext htwo hlen htop
  obtain ⟨hearly, hnone⟩ := lineOfExactlyN_runs
  rcases Nat.lt_or_ge k 5 with hk | hk
  · exact absurd ((hearly k hk t hrun hidle).symm.trans hrest) (by decide)
  · rw [← Nat.add_sub_cancel' hk, List.replicate_add, runTurns_append, hnone] at hrun
    cases hrun

end Sys2Proof.Machine

/-! ## The transmit pipeline (43_transmit.md) -/

namespace Sys2Proof.Machine

/-! ### TX_ISR and E_TX (R171, R222) -/

section
variable {s : State}

theorem enabled_txIsr_iff : s.enabled (.i .tx) = true ↔
    s.cfg.blockOk = true ∧ s.inited = true ∧ s.txie = true ∧ s.txrdy = true := by
  simp [State.enabled, State.pending, State.ie, State.ready, and_assoc]

theorem enabled_eTx_iff : s.enabled (.e .tx) = true ↔ s.cfg.blockOk = true ∧ s.txrdy = false := by
  simp [State.enabled]

theorem exec_txIsr_empty (h : s.txf.isEmpty = true) : exec .txIsr s = .next { s with txie := false } := if_pos h

/-- The handler moves the head of the buffered bytes into TXDR. -/
theorem exec_txIsr_cons {b : Byte} {rest : List Byte} (hwf : RB.Wf s.cfg.txK s.txf)
    (hc : s.txf.contents s.cfg.txK = b :: rest) :
    exec .txIsr s = .next { s with txf := (s.txf.read s.cfg.txK).2, txdr := b, txrdy := false } := by
  obtain ⟨hhead, -⟩ := RB.read_cons hwf hc
  simp [exec, execTxIsr, RB.isEmpty_of_cons hwf hc, hhead]

end

/-- Settles O29: TXF is empty, or its oldest byte is the head of its contents. -/
theorem txIsrSendsOrDisables : Obligations.TxIsrSendsOrDisables := by
  unfold Obligations.TxIsrSendsOrDisables
  intro s hwf
  refine ⟨fun hnil => exec_txIsr_empty ((RB.isEmpty_iff_contents hwf).mpr hnil), fun b rest hc => ?_⟩
  exact ⟨_, RB.read_wf hwf, (RB.read_cons hwf hc).2, exec_txIsr_cons hwf hc⟩

/-! ### The steps of TX_WRITE (R175) -/

theorem RB.isFull_eq_false_of_room {w k : Nat} {f : RB w} (h : f.Wf k) (hroom : (f.contents k).length + 1 ≠ 2 ^ k) :
    f.isFull k = false :=
  Bool.eq_false_iff.mpr (mt (RB.isFull_iff_contents h).mp hroom)

/-- The state after the enter step of a TX_WRITE. -/
def writeEntered (sp : Space) (a n : Half) (s : State) : State :=
  { s with
    txie := false,
    loc := { s.loc with space := sp, addr := a, len := n, cnt := 0, p := s.txie, label := .l1 } }

/-- Byte `i` of the source of a TX_WRITE (R173). -/
def sourceAt (s : State) (i : Nat) : Byte := (s.mem s.loc.space).read (bufferByte s.loc.addr i)

section
variable {s : State}

theorem txFetch_end (hlen : s.loc.len ≠ 0) (hcnt : s.loc.cnt = s.loc.len.toNat) :
    txFetch s = { s with loc.label := .l5 } := if_pos ⟨hlen, hcnt⟩

section
variable (hmore : ¬ (s.loc.len ≠ 0 ∧ s.loc.cnt = s.loc.len.toNat))
include hmore

/-- A source byte inside the space is fetched, and its null ends a string write (R176). -/
theorem txFetch_byte (ha : bufferByte s.loc.addr s.loc.cnt ≤ topAddress) :
    txFetch s = { s with loc := { s.loc with
      c := sourceAt s s.loc.cnt, label := if s.loc.len = 0 ∧ sourceAt s s.loc.cnt = 0 then .l5 else .l2 } } := by
  rcases txFetch_cases s with ⟨hlen, hcnt, -⟩ | ⟨-, ⟨-, e⟩ | ⟨hpast, -⟩⟩
  · exact absurd ⟨hlen, hcnt⟩ hmore
  · exact e
  · exact absurd ha (Nat.not_le.mpr hpast)

theorem txFetch_next (ha : bufferByte s.loc.addr s.loc.cnt ≤ topAddress)
    (hnull : ¬ (s.loc.len = 0 ∧ sourceAt s s.loc.cnt = 0)) :
    txFetch s = { s with loc := { s.loc with c := sourceAt s s.loc.cnt, label := .l2 } } := by
  rw [txFetch_byte hmore ha, if_neg hnull]

/-- A source byte past the top of its space is an access fault (R173). -/
theorem txFetch_fault (hpast : topAddress < bufferByte s.loc.addr s.loc.cnt) :
    txFetch s = raiseFault .accessFault (BitVec.ofNat 16 (bufferByte s.loc.addr s.loc.cnt)) s := by
  rcases txFetch_cases s with ⟨hlen, hcnt, -⟩ | ⟨-, ⟨ha, -⟩ | ⟨-, e⟩⟩
  · exact absurd ⟨hlen, hcnt⟩ hmore
  · exact absurd ha (Nat.not_le.mpr hpast)
  · exact e

end

theorem txFetch_null (hlen : s.loc.len = 0) (hnull : sourceAt s s.loc.cnt = 0)
    (ha : bufferByte s.loc.addr s.loc.cnt ≤ topAddress) :
    txFetch s = { s with loc := { s.loc with c := 0, label := .l5 } } := by
  rw [txFetch_byte (fun h => h.1 hlen) ha, if_pos ⟨hlen, hnull⟩, hnull]

theorem txPush_full (h : s.txf.isFull s.cfg.txK = true) : txPush s = { s with txie := true, loc.label := .l3 } :=
  if_pos h

theorem txPush_room (h : s.txf.isFull s.cfg.txK = false) :
    txPush s = { s with
      txf := (s.txf.write s.cfg.txK s.loc.c).2, loc := { s.loc with cnt := s.loc.cnt + 1, label := .l1 } } := by
  rcases txPush_cases s with ⟨hfull, -⟩ | ⟨-, e⟩
  · exact absurd (hfull.symm.trans h) (by decide)
  · exact e

variable {sp : Space} {a n : Half}

theorem exec_txWrite_enter (hl : s.loc.label = .l0) :
    exec (.txWrite sp a n) s = .next (writeEntered sp a n s) := by
  simp only [exec, execTxWrite, hl]
  rfl

theorem exec_txWrite_fetch (hl : s.loc.label = .l1) : exec (.txWrite sp a n) s = .next (txFetch s) := by
  simp only [exec, execTxWrite, hl]

theorem exec_txWrite_push (hl : s.loc.label = .l2) : exec (.txWrite sp a n) s = .next (txPush s) := by
  simp only [exec, execTxWrite, hl]

theorem exec_txWrite_delay (hl : s.loc.label = .l3) : exec (.txWrite sp a n) s = .next { s with loc.label := .l4 } := by
  simp only [exec, execTxWrite, hl]
  rfl

theorem exec_txWrite_disable (hl : s.loc.label = .l4) :
    exec (.txWrite sp a n) s = .next { s with txie := false, loc.label := .l2 } := by
  simp only [exec, execTxWrite, hl]
  rfl

/-- The last step sets TXIE over the captured bit. -/
theorem exec_txWrite_exit (hl : s.loc.label = .l5) :
    exec (.txWrite sp a n) s = .next { s with
      txie := true, res := BitVec.ofNat 16 s.loc.cnt, loc.busy := false } := by
  conv_lhs => simp only [exec, execTxWrite, hl]
  rfl

end

/-- Settles O30: the six labels, L1 split by where the source byte lies and L2 by whether TXF is full. -/
theorem txWriteSteps : Obligations.TxWriteSteps := by
  unfold Obligations.TxWriteSteps
  intro sp a n s hwf
  refine ⟨exec_txWrite_enter, fun hl hlen hcnt => ?_, fun hl hmore => ?_, fun hl hfull => ?_, fun hl hroom => ?_,
    exec_txWrite_delay, exec_txWrite_disable, exec_txWrite_exit⟩
  · rw [exec_txWrite_fetch hl, txFetch_end hlen hcnt]
  · rw [exec_txWrite_fetch hl]
    refine ⟨fun ha => congrArg _ (txFetch_byte hmore ha), fun hpast hclear => ?_⟩
    rw [txFetch_fault hmore hpast, raiseFault_clear hclear]
    rfl
  · rw [exec_txWrite_push hl, txPush_full ((RB.isFull_iff_contents hwf).mpr hfull)]
  · have hf := RB.isFull_eq_false_of_room hwf hroom
    refine ⟨_, RB.write_wf hwf _, RB.contents_write hwf hf _, ?_⟩
    rw [exec_txWrite_push hl, txPush_room hf]

/-! ### The transmitted stream (R177) -/

/-- A command of port M writes neither STATUS nor TXDR. -/
theorem mayWrite_transmitter_of_portM {i : Instr} (hp : i.port = .portM) :
    mayWrite i .status = false ∧ mayWrite i .txdr = false := by
  cases i with
  | csDisable f => cases f <;> decide
  | csRestore f => cases f <;> decide
  | rbWrite | rbRead | rbCount | rbIsfull | rbIsempty | rxIsr | txIsr => cases hp
  | _ => exact ⟨rfl, rfl⟩

/-- TXRDY is bit 1 of STATUS. -/
theorem txrdy_of_status {s t : State} (h : t.readReg .status = s.readReg .status) : t.txrdy = s.txrdy := by
  have hrx := Bool.toNat_lt s.rxc
  have hrx' := Bool.toNat_lt t.rxc
  simp only [State.readReg] at h
  have hbit : t.txrdy.toNat = s.txrdy.toNat := by omega
  rw [← Bool.ofNat_toNat t.txrdy, hbit, Bool.ofNat_toNat]

section
variable {s t : State}

/-- A command of port M other than TX_WRITE touches no part of the stream. -/
theorem exec_portM_sentBytes {i : Instr} (hp : i.port = .portM) (hi : ∀ sp a n, i ≠ .txWrite sp a n)
    (h : exec i s = .next t) : sentBytes t = sentBytes s := by
  obtain ⟨hstatus, htxdr⟩ := mayWrite_transmitter_of_portM hp
  have hrdy : t.txrdy = s.txrdy := txrdy_of_status (registersChangeOnlyByTheirWriters i s t _ h hstatus).1
  have hdr : t.txdr = s.txdr := BitVec.eq_of_toNat_eq (registersChangeOnlyByTheirWriters i s t _ h htxdr).1
  obtain ⟨hcfg, -, -, hline, -, -, -, -, -, -, -, -, -, htxf⟩ := eachCommandLeavesTheRest i s t h
  have hq : t.txf = s.txf := htxf (by rintro rfl; cases hp) hi
  rw [sentBytes, hcfg, hline, hrdy, hdr, hq, sentBytes]

/-- A step of TX_WRITE keeps the stream, but for the push that finds room. -/
theorem exec_txWrite_sentBytes {sp : Space} {a n : Half} (hwf : RB.Wf s.cfg.txK s.txf)
    (h : exec (.txWrite sp a n) s = .next t) :
    sentBytes t = sentBytes s ∨
      (s.loc.label = .l2 ∧ t.loc.cnt = s.loc.cnt + 1 ∧ sentBytes t = sentBytes s ++ [s.loc.c]) := by
  rcases execTxWrite_cases h with ⟨-, rfl⟩ | ⟨-, rfl⟩ | ⟨hl, rfl⟩ | ⟨-, rfl⟩ | ⟨-, rfl⟩ | ⟨-, rfl⟩
  case inr.inl =>
    obtain ⟨_, _, _, _, e⟩ := txFetch_frame s
    rw [e]
    exact .inl rfl
  case inr.inr.inl =>
    rcases txPush_cases s with ⟨-, e⟩ | ⟨hroom, e⟩ <;> rw [e]
    · exact .inl rfl
    · refine .inr ⟨hl, rfl, ?_⟩
      simp only [sentBytes, RB.contents_write hwf hroom, List.append_assoc]
  all_goals exact .inl rfl

/-- TX_ISR moves the oldest byte of TXF into TXDR, which holds no unsent byte while TXRDY = 1. -/
theorem exec_txIsr_sentBytes (hwf : RB.Wf s.cfg.txK s.txf) (hrdy : s.txrdy = true) (h : exec .txIsr s = .next t) :
    sentBytes t = sentBytes s := by
  rcases execTxIsr_cases h with ⟨-, rfl⟩ | ⟨hne, rfl⟩
  · rfl
  · simp [sentBytes, hrdy, RB.contents_read hwf hne]

/-- E_TX puts the unsent byte of TXDR on the line. -/
theorem eTx_sentBytes (hrdy : s.txrdy = false) : sentBytes (eTx s) = sentBytes s := by
  simp [sentBytes, eTx, hrdy]

/-- An enabled transition keeps the stream, but for the enqueuing step of a TX_WRITE. -/
theorem fire_sentBytes {u : Turn} (hwf : RB.Wf s.cfg.txK s.txf) (hen : s.enabled u = true)
    (he : fire u s = .next t) :
    sentBytes t = sentBytes s ∨
      ∃ sp a n, running s = some (.txWrite sp a n) ∧ s.loc.label = .l2 ∧ t.loc.cnt = s.loc.cnt + 1 ∧
        sentBytes t = sentBytes s ++ [s.loc.c] := by
  cases u with
  | m =>
    rcases mStep_cases he with ⟨-, rfl⟩ | ⟨i, hr, he⟩
    · obtain ⟨_, _, _, _, _, _, e⟩ := fetch_frame s
      rw [e]
      exact .inl rfl
    · by_cases hi : ∃ sp a n, i = .txWrite sp a n
      · obtain ⟨sp, a, n, rfl⟩ := hi
        exact (exec_txWrite_sentBytes hwf he).imp_right fun hpush => ⟨sp, a, n, hr, hpush⟩
      · exact .inl (exec_portM_sentBytes (running_port hr) (fun sp a n e => hi ⟨sp, a, n, e⟩) he)
  | i f =>
    cases f with
    | rx =>
      obtain ⟨_, _, _, rfl⟩ := rxIsr_frame he
      exact .inl rfl
    | tx =>
      obtain ⟨-, -, -, hrdy⟩ := enabled_txIsr_iff.mp hen
      exact .inl (exec_txIsr_sentBytes hwf hrdy he)
  | e f =>
    cases f with
    | rx =>
      cases he
      obtain ⟨_, _, _, _, e⟩ := eRx_frame s
      rw [e]
      exact .inl rfl
    | tx =>
      cases he
      exact .inl (eTx_sentBytes (enabled_eTx_iff.mp hen).2)
  | test =>
    rw [tStep_frame he]
    exact .inl rfl

end

/-- Settles O33: `fire_sentBytes` of the transition that the scheduler picks, past its own bookkeeping. -/
theorem transmitHistoryIsOneStream : Obligations.TransmitHistoryIsOneStream := by
  unfold Obligations.TransmitHistoryIsOneStream
  intro s s' hwf h
  obtain ⟨u, hen, he⟩ := step_cases h
  exact fire_sentBytes (s := tick s) hwf ((tick_enabled u s).trans hen) he

/-! ### A whole TX_WRITE, agent M alone -/

/-- The state at L1 of a TX_WRITE with `m` bytes enqueued, `c` the byte fetched last and TXF as the pushes left it. -/
def enqueued (f : RB 8) (c : Byte) (m : Nat) (s : State) : State :=
  { s with txf := f, loc := { s.loc with c := c, cnt := m, label := .l1 } }

theorem enqueued_self {s : State} (hl : s.loc.label = .l1) : enqueued s.txf s.loc.c s.loc.cnt s = s := by
  rw [enqueued, ← hl]

section
variable {sp : Space} {a n : Half} {s : State} {ts : List Turn} {r : Option State}

/-- L1 and L2 enqueue one source byte that does not end the write, where TXF has room for it. -/
theorem Executing.enqueueByte (h : Executing (.txWrite sp a n) s) (hl : s.loc.label = .l1)
    (hmore : ¬ (s.loc.len ≠ 0 ∧ s.loc.cnt = s.loc.len.toNat))
    (hnull : ¬ (s.loc.len = 0 ∧ sourceAt s s.loc.cnt = 0)) (ha : bufferByte s.loc.addr s.loc.cnt ≤ topAddress)
    (hroom : s.txf.isFull s.cfg.txK = false)
    (hr : runTurns ts (enqueued (s.txf.write s.cfg.txK (sourceAt s s.loc.cnt)).2 (sourceAt s s.loc.cnt)
      (s.loc.cnt + 1) s) = r) :
    runTurns (.m :: .m :: ts) s = r := by
  refine h.runTurns_cons ((exec_txWrite_fetch hl).trans (congrArg _ (txFetch_next hmore ha hnull))) ?_
  refine Executing.runTurns_cons { h with } ?_ hr
  exact (exec_txWrite_push rfl).trans (congrArg _ (txPush_room hroom))

/-- The loop of L1 and L2 enqueues the first `m` source bytes in order, where none of them ends the write and TXF has
room for all. -/
theorem Executing.enqueueBytes (h : Executing (.txWrite sp a n) s) (hl : s.loc.label = .l1) (hcnt : s.loc.cnt = 0)
    (hwf : RB.Wf s.cfg.txK s.txf) (m : Nat) (hmore : ∀ i < m, ¬ (s.loc.len ≠ 0 ∧ i = s.loc.len.toNat))
    (hnull : ∀ i < m, ¬ (s.loc.len = 0 ∧ sourceAt s i = 0))
    (htop : bufferByte s.loc.addr m ≤ topAddress + 1)
    (hroom : (s.txf.contents s.cfg.txK).length + m < 2 ^ s.cfg.txK) :
    ∃ (f : RB 8) (c : Byte), RB.Wf s.cfg.txK f ∧
      f.contents s.cfg.txK = s.txf.contents s.cfg.txK ++ (List.range m).map (sourceAt s) ∧
      ∀ ts r, runTurns ts (enqueued f c m s) = r → runTurns (List.replicate (2 * m) .m ++ ts) s = r := by
  induction m with
  | zero =>
    refine ⟨s.txf, s.loc.c, hwf, by simp, fun ts r hr => ?_⟩
    rwa [← hcnt, enqueued_self hl] at hr
  | succ m ih =>
    have hlt : bufferByte s.loc.addr m ≤ topAddress := Nat.le_of_lt_succ htop
    obtain ⟨f, c, hf, hc, hrun⟩ := ih (fun i hi => hmore i (by omega)) (fun i hi => hnull i (by omega))
      (Nat.le_succ_of_le hlt) (by omega)
    have hlen : (f.contents s.cfg.txK).length = (s.txf.contents s.cfg.txK).length + m := by
      rw [hc, List.length_append, List.length_map, List.length_range]
    have hfree := RB.isFull_eq_false_of_room hf (by omega)
    refine ⟨(f.write s.cfg.txK (sourceAt s m)).2, sourceAt s m, RB.write_wf hf _, ?_, fun ts r hr => ?_⟩
    · rw [RB.contents_write hf hfree, hc, List.range_succ, List.map_append, List.append_assoc]
      rfl
    · rw [Nat.mul_succ, List.replicate_add, List.append_assoc]
      exact hrun _ _ (Executing.enqueueByte { h with } rfl (hmore m (by omega)) (hnull m (by omega)) hlt hfree hr)

/-- A whole TX_WRITE of `m` bytes: the enter step, the loop, the fetch that finds the end and the exit step. -/
theorem Executing.write (h : Executing (.txWrite sp a n) s) (hl : s.loc.label = .l0)
    (hwf : RB.Wf s.cfg.txK s.txf) {m : Nat} (hmore : ∀ i < m, ¬ (n ≠ 0 ∧ i = n.toNat))
    (hnull : ∀ i < m, ¬ (n = 0 ∧ (s.mem sp).read (bufferByte a i) = 0))
    (hend : (n ≠ 0 ∧ m = n.toNat) ∨
      (n = 0 ∧ (s.mem sp).read (bufferByte a m) = 0 ∧ bufferByte a m ≤ topAddress))
    (htop : bufferByte a m ≤ topAddress + 1) (hroom : (s.txf.contents s.cfg.txK).length + m < 2 ^ s.cfg.txK) :
    ∃ (f : RB 8) (l : Locals), l.busy = false ∧ RB.Wf s.cfg.txK f ∧
      f.contents s.cfg.txK =
        s.txf.contents s.cfg.txK ++ (List.range m).map (fun i => (s.mem sp).read (bufferByte a i)) ∧
      runTurns (List.replicate (2 * m + 3) .m) s = some { s with
        txf := f, txie := true, res := BitVec.ofNat 16 m, loc := l } := by
  obtain ⟨f, c, hf, hc, hrun⟩ := Executing.enqueueBytes (s := writeEntered sp a n s) { h with } rfl rfl hwf m
    hmore hnull htop hroom
  obtain ⟨c', hlast⟩ : ∃ c', txFetch (enqueued f c m (writeEntered sp a n s)) =
      goto .l5 (enqueued f c' m (writeEntered sp a n s)) := by
    rcases hend with ⟨hn, hm⟩ | ⟨hn, hz, ha⟩
    · exact ⟨c, txFetch_end hn hm⟩
    · exact ⟨0, txFetch_null hn hz ha⟩
  refine ⟨f, { (goto .l5 (enqueued f c' m (writeEntered sp a n s))).loc with busy := false }, rfl, hf, hc, ?_⟩
  rw [replicate_add_three]
  refine h.runTurns_cons (exec_txWrite_enter hl) (hrun _ _ ?_)
  refine Executing.runTurns_cons { h with } ((exec_txWrite_fetch rfl).trans (congrArg _ hlast)) ?_
  exact Executing.runTurns_cons { h with } (exec_txWrite_exit rfl) rfl

end

/-- Settles O31: `Executing.write` of n bytes, which end at the count. -/
theorem txWriteEnqueuesCounted : Obligations.TxWriteEnqueuesCounted := by
  unfold Obligations.TxWriteEnqueuesCounted
  intro sp a n s hok hclear hr hl hwf hn hroom htop
  have hw := Executing.write (m := n.toNat) ⟨hok, hclear, hr⟩ hl hwf (fun i hi e => hi.ne e.2)
    (fun i _ e => hn e.1) (.inl ⟨hn, rfl⟩) htop hroom
  rwa [BitVec.ofNat_toNat, BitVec.setWidth_eq] at hw

/-- Settles O32: `Executing.write` of the bytes before the first null, which ends a string write. -/
theorem txWriteStringStopsAtNull : Obligations.TxWriteStringStopsAtNull := by
  unfold Obligations.TxWriteStringStopsAtNull
  intro sp a s m hok hclear hr hl hwf htext hnull hroom htop
  exact Executing.write ⟨hok, hclear, hr⟩ hl hwf (fun i _ e => e.1 rfl) (fun i hi e => htext i hi e.2)
    (.inr ⟨rfl, hnull, htop⟩) (Nat.le_succ_of_le htop) hroom

/-! ### The drain of TXF to the line (R170, R227) -/

theorem runTurns_cons {u : Turn} {s t : State} (hen : s.enabled u = true) (hf : fire u s = .next t) (ts : List Turn) :
    runTurns (u :: ts) s = runTurns ts t := by
  simp only [runTurns, if_pos hen, hf]

theorem runTurns_eTx {s : State} (hok : s.cfg.blockOk = true) (hbusy : s.txrdy = false) (ts : List Turn) :
    runTurns (.e .tx :: ts) s = runTurns ts (eTx s) :=
  runTurns_cons (enabled_eTx_iff.mpr ⟨hok, hbusy⟩) rfl ts

section
variable {s : State} (hok : s.cfg.blockOk = true) (hin : s.inited = true) (hie : s.txie = true) (hrdy : s.txrdy = true)
  (hwf : RB.Wf s.cfg.txK s.txf)
include hok hin hie hrdy hwf

/-- With the transmitter idle, a turn of the handler and one of the line put the oldest byte of TXF on the line. -/
theorem runTurns_sendByte {x : Byte} {xs : List Byte} (hc : s.txf.contents s.cfg.txK = x :: xs) (ts : List Turn) :
    runTurns (.i .tx :: .e .tx :: ts) s =
      runTurns ts { s with txf := (s.txf.read s.cfg.txK).2, txdr := x, lineOut := s.lineOut ++ [x] } := by
  have hisr := runTurns_cons (enabled_txIsr_iff.mpr ⟨hok, hin, hie, hrdy⟩) (exec_txIsr_cons hwf hc) (.e .tx :: ts)
  refine hisr.trans ((runTurns_eTx ?_ ?_ ts).trans ?_)
  · exact hok
  · rfl
  · rw [eTx, ← hrdy]

/-- The two turns as often as TXF holds bytes put them all on the line in order, and the handler then finds TXF empty
and disables its own interrupt. -/
theorem runTurns_sendAll {bytes : List Byte} (hc : s.txf.contents s.cfg.txK = bytes) :
    ∃ (f : RB 8) (b : Byte), RB.Wf s.cfg.txK f ∧ f.contents s.cfg.txK = [] ∧
      runTurns ((List.replicate bytes.length [Turn.i .tx, Turn.e .tx]).flatten ++ [Turn.i .tx]) s =
        some { s with txf := f, txdr := b, txie := false, lineOut := s.lineOut ++ bytes } := by
  induction bytes generalizing s with
  | nil =>
    have hisr := exec_txIsr_empty ((RB.isEmpty_iff_contents hwf).mpr hc)
    refine ⟨s.txf, s.txdr, hwf, hc, ?_⟩
    rw [List.append_nil]
    exact runTurns_cons (enabled_txIsr_iff.mpr ⟨hok, hin, hie, hrdy⟩) hisr []
  | cons x xs ih =>
    obtain ⟨f, b, hf, hnil, hrun⟩ := ih (s := { s with
        txf := (s.txf.read s.cfg.txK).2, txdr := x, lineOut := s.lineOut ++ [x] })
      hok hin hie hrdy (RB.read_wf hwf) (RB.read_cons hwf hc).2
    refine ⟨f, b, hf, hnil, ?_⟩
    rw [List.append_assoc] at hrun
    exact (runTurns_sendByte hok hin hie hrdy hwf hc _).trans hrun

end

/-- Settles O34: a byte in TXDR goes out first, and `runTurns_sendAll` sends those of TXF. -/
theorem transmitDrains : Obligations.TransmitDrains := by
  unfold Obligations.TransmitDrains
  intro s hok hin hie hwf
  cases hrdy : s.txrdy with
  | true =>
    obtain ⟨f, b, hf, hnil, hrun⟩ := runTurns_sendAll hok hin hie hrdy hwf rfl
    refine ⟨f, b, hf, hnil, ?_⟩
    simpa [sentBytes, hrdy] using hrun
  | false =>
    obtain ⟨f, b, hf, hnil, hrun⟩ := runTurns_sendAll (s := eTx s) hok hin hie rfl hwf rfl
    refine ⟨f, b, hf, hnil, (runTurns_eTx hok hrdy _).trans (hrun.trans ?_)⟩
    simp [sentBytes, eTx, hrdy]

end Sys2Proof.Machine

/-! ## Initialization (44_init.md) -/

namespace Sys2Proof.Machine

/-- R206 for the first record. -/
theorem refuse_clear {s : State} (h : s.fcause = 0) (c : Cause) :
    refuse c s = { s with refused := true, fcause := c.code, fword := s.loc.cur0 } := if_pos h

/-! ### The two cases of INIT (R190, R191) -/

theorem exec_init_first {s : State} (h : s.inited = false) (n : Half) :
    exec (.init n) s = .next { s with
      baudcfg := n, rxie := true, txie := false, inited := true, loc.busy := false } :=
  if_neg (Bool.eq_false_iff.mp h)

theorem exec_init_again {s : State} (h : s.inited = true) (n : Half) :
    exec (.init n) s = .next (refuse .refusedReinit s) := if_pos h

/-- Settles O36: INITED tells the first INIT from a second, whose refusal is the first record while FCAUSE is 0. -/
theorem initEnablesReceive : Obligations.InitEnablesReceive := by
  unfold Obligations.InitEnablesReceive
  refine fun n s => ⟨fun hfirst => exec_init_first hfirst n, fun hagain hclear => ?_⟩
  rw [exec_init_again hagain, refuse_clear hclear, Cause.code]

end Sys2Proof.Machine

/-! ## Exceptions: the handlers, the line, the end of a run (60_exceptions.md) -/

namespace Sys2Proof.Machine

/-! ### What a handler reads and writes (R212, R215) -/

theorem exec_txIsr_nonempty {s : State} (h : s.txf.isEmpty = false) :
    exec .txIsr s = .next { s with
      txf := (s.txf.read s.cfg.txK).2, txdr := (s.txf.read s.cfg.txK).1, txrdy := false } :=
  if_neg (Bool.eq_false_iff.mp h)

/-- RX_ISR writes the same values whatever agent M's micro-state, CPC and the transmit side hold. -/
theorem exec_rxIsr_local (s : State) : ∃ q nl d,
    ∀ (l : Locals) (p : Nat) (ie : Bool) (f : RB 8) (b : Byte) (r : Bool),
    exec .rxIsr { s with loc := l, cpc := p, txie := ie, txf := f, txdr := b, txrdy := r } =
      .next { s with loc := l, cpc := p, txie := ie, txf := f, txdr := b, txrdy := r,
                     rxc := false, rxf := q, nlcnt := nl, rxDropped := d } := by
  cases hf : s.rxf.isFull s.cfg.rxK with
  | true =>
    refine ⟨s.rxf, s.nlcnt, s.rxDropped + 1, fun l p ie f b r => ?_⟩
    exact exec_rxIsr_full (s := { s with loc := l, cpc := p, txie := ie, txf := f, txdr := b, txrdy := r }) hf
  | false =>
    refine ⟨(s.rxf.write s.cfg.rxK s.rxdr).2, if s.rxdr = newline then s.nlcnt + 1 else s.nlcnt, s.rxDropped,
      fun l p ie f b r => ?_⟩
    exact exec_rxIsr_room (s := { s with loc := l, cpc := p, txie := ie, txf := f, txdr := b, txrdy := r }) hf

/-- TX_ISR writes the same values whatever agent M's micro-state, CPC and the receive side hold. -/
theorem exec_txIsr_local (s : State) : ∃ ie f b r,
    ∀ (l : Locals) (p : Nat) (c : Bool) (q : RB 8) (nl : Byte) (d : Nat),
    exec .txIsr { s with loc := l, cpc := p, rxc := c, rxf := q, nlcnt := nl, rxDropped := d } =
      .next { s with loc := l, cpc := p, rxc := c, rxf := q, nlcnt := nl, rxDropped := d,
                     txie := ie, txf := f, txdr := b, txrdy := r } := by
  cases he : s.txf.isEmpty with
  | true =>
    refine ⟨false, s.txf, s.txdr, s.txrdy, fun l p c q nl d => ?_⟩
    exact exec_txIsr_empty (s := { s with loc := l, cpc := p, rxc := c, rxf := q, nlcnt := nl, rxDropped := d }) he
  | false =>
    refine ⟨s.txie, (s.txf.read s.cfg.txK).2, (s.txf.read s.cfg.txK).1, false, fun l p c q nl d => ?_⟩
    exact exec_txIsr_nonempty (s := { s with loc := l, cpc := p, rxc := c, rxf := q, nlcnt := nl, rxDropped := d }) he

theorem enabled_handler {s : State} (hok : s.cfg.blockOk = true) (f : Source) : s.enabled (.i f) = s.pending f := by
  simp [State.enabled, hok]

theorem runTurns_pair {u w : Turn} {s t v : State} (hu : s.enabled u = true) (hut : fire u s = .next t)
    (hw : t.enabled w = true) (hwv : fire w t = .next v) : runTurns [u, w] s = some v :=
  (runTurns_cons hu hut [w]).trans (runTurns_cons hw hwv [])

/-- Settles O40: each handler writes the same values after the other as before it, and leaves the other pending. -/
theorem handlersCommute : Obligations.HandlersCommute := by
  unfold Obligations.HandlersCommute
  intro s hok hrx htx
  have hi := (enabled_handler hok .rx).trans hrx
  have hj := (enabled_handler hok .tx).trans htx
  obtain ⟨q, nl, d, hR⟩ := exec_rxIsr_local s
  obtain ⟨ie, f, b, r, hT⟩ := exec_txIsr_local s
  have hr : fire (.i .rx) s = .next { s with rxc := false, rxf := q, nlcnt := nl, rxDropped := d } :=
    hR s.loc s.cpc s.txie s.txf s.txdr s.txrdy
  have ht : fire (.i .tx) s = .next { s with txie := ie, txf := f, txdr := b, txrdy := r } :=
    hT s.loc s.cpc s.rxc s.rxf s.nlcnt s.rxDropped
  have hrt := runTurns_pair (w := .i .tx) hi hr ((enabled_handler hok .tx).trans htx) (hT s.loc s.cpc false q nl d)
  have htr := runTurns_pair (w := .i .rx) hj ht ((enabled_handler hok .rx).trans hrx) (hR s.loc s.cpc ie f b r)
  exact ⟨hi, hj, _, _, _, hr, ht, rfl, rfl, hrt, htr⟩

/-- Settles O41: what a handler writes does not depend on agent M's pointer and micro-state. -/
theorem handlersLeaveAgentMAlone : Obligations.HandlersLeaveAgentMAlone := by
  unfold Obligations.HandlersLeaveAgentMAlone
  intro s l p
  obtain ⟨q, nl, d, hR⟩ := exec_rxIsr_local s
  obtain ⟨ie, f, b, r, hT⟩ := exec_txIsr_local s
  have hr := fun l p => hR l p s.txie s.txf s.txdr s.txrdy
  have ht := fun l p => hT l p s.rxc s.rxf s.nlcnt s.rxDropped
  refine ⟨fun g => ?_, ⟨_, hr s.loc s.cpc, rfl⟩, ⟨_, ht s.loc s.cpc, rfl⟩⟩
  cases g with
  | rx =>
    have h : exec .rxIsr s = _ := hr s.loc s.cpc
    rw [handlerOf, h]
    exact hr l p
  | tx =>
    have h : exec .txIsr s = _ := ht s.loc s.cpc
    rw [handlerOf, h]
    exact ht l p

/-! ### The line (R220, R221) -/

/-- LINE_IN has a byte at every index of an endless line, and at those below its length of a finite one. -/
theorem lineAt_isSome {c : Config} {i : Nat} :
    (c.lineAt i).isSome = true ↔ c.lineEndless = true ∨ i < c.lineIn.length := by
  unfold Config.lineAt
  split
  next b h => simp [(List.getElem?_eq_some_iff.mp h).1]
  next h =>
    have hpast := List.getElem?_eq_none_iff.mp h
    cases c.lineEndless <;> simp [hpast]

theorem enabled_eRx_iff {s : State} : s.enabled (.e .rx) = true ↔
    s.cfg.blockOk = true ∧ (s.cfg.lineEndless = true ∨ s.linPos < s.cfg.lineIn.length) := by
  simp [State.enabled, State.eRxEnabled, lineAt_isSome]

theorem eRx_delivers {s : State} {b : Byte} (hb : s.cfg.lineAt s.linPos = some b) (hfree : s.rxc = false) :
    eRx s = { s with linPos := s.linPos + 1, rxdr := b, rxc := true } := by
  simp [eRx, hb, hfree]

theorem eRx_loses {s : State} {b : Byte} (hb : s.cfg.lineAt s.linPos = some b) (hheld : s.rxc = true) :
    eRx s = { s with linPos := s.linPos + 1, lineLost := s.lineLost + 1 } := by
  simp [eRx, hb, hheld]

/-- Settles O43: RXC tells a delivered byte from a lost one. -/
theorem lineTransfers : Obligations.LineTransfers := by
  unfold Obligations.LineTransfers
  intro s hok
  refine ⟨?_, fun hfin => ?_, fun b hb hc => ?_, fun b hb hc => ?_, ?_, rfl⟩
  · simp [enabled_eRx_iff, lineAt_isSome, hok]
  · simp [lineAt_isSome, hfin]
  · exact congrArg Host.Outcome.next (eRx_delivers hb hc)
  · exact congrArg Host.Outcome.next (eRx_loses hb hc)
  · simp [enabled_eTx_iff, hok]

/-! ### States without an enabled transition (R200, R227) -/

theorem step_of_disabled {s : State} (h : ∀ t, s.enabled t = false) : step s = noTurn s := by
  rcases nextTurn_cases s with ⟨t, -, ht⟩ | ⟨hnone, -⟩
  · simp [h t] at ht
  · simp only [step, hnone]

theorem enabled_of_refusedConfig {s : State} (hno : s.cfg.blockOk = false) {t : Turn} (ht : t ≠ .test) :
    s.enabled t = false := by
  cases t with
  | m => simp [State.enabled, hno]
  | i f => simp [State.enabled, hno]
  | e f => cases f <;> simp [State.enabled, hno]
  | test => exact absurd rfl ht

theorem enabled_test_of_noInput {s : State} (h : s.test.input = []) : s.enabled .test = false := by
  simp [State.enabled, h]

/-- Settles O45: the block's agents are disabled by the configuration, and port T by its empty input at reset. -/
theorem refusedConfigurationNeverRuns : Obligations.RefusedConfigurationNeverRuns := by
  unfold Obligations.RefusedConfigurationNeverRuns
  intro cfg dataInit progImage hno
  have hoff : ∀ s : State, s.cfg = cfg → ∀ t, t ≠ .test → s.enabled t = false := by
    rintro s rfl t ht
    exact enabled_of_refusedConfig hno ht
  refine ⟨by simp [State.resetOf, hno], by simp [State.resetOf, hno], ?_, hoff⟩
  have hdis : ∀ t, (State.resetOf cfg dataInit progImage).enabled t = false := by
    intro t
    by_cases ht : t = .test
    · subst ht
      exact enabled_test_of_noInput rfl
    · exact hoff _ rfl t ht
  rw [step_of_disabled hdis]
  simp [noTurn, State.resetOf, hno]

/-- A command's step has a next state, or its label is none of its microprogram's. -/
theorem exec_next_or_noSuchLabel (i : Instr) (s : State) :
    (∃ t, exec i s = .next t) ∨ exec i s = .fault .noSuchLabel := by
  cases i with
  | csDisable f =>
    simp only [exec, execCsDisable]
    split <;> exact .inl ⟨_, rfl⟩
  | csRestore f =>
    simp only [exec, execCsRestore]
    split <;> exact .inl ⟨_, rfl⟩
  | init n =>
    simp only [exec, execInit]
    split <;> exact .inl ⟨_, rfl⟩
  | rxLineAvail | rbWrite | rbRead | rbCount | rbIsfull | rbIsempty => exact .inl ⟨_, rfl⟩
  | rxAvail =>
    simp only [exec, execRxAvail]
    cases s.loc.label <;> simp
  | rxReadUntil a n e =>
    simp only [exec, execRxReadUntil]
    cases s.loc.label <;> cases readUntilExit s <;> simp
  | rxReadExact a n =>
    simp only [exec, execRxReadExact]
    cases s.loc.label <;> cases readUntilExit s <;> simp
  | txWrite sp a n =>
    simp only [exec, execTxWrite]
    cases s.loc.label <;> simp
  | rxIsr => exact .inl (exec_handler_next .rx s)
  | txIsr => exact .inl (exec_handler_next .tx s)

theorem exec_ne_runEnded (i : Instr) (s : State) : exec i s ≠ .fault .runEnded := by
  rcases exec_next_or_noSuchLabel i s with ⟨t, e⟩ | e <;> simp [e]

/-- No transition answers that the run has ended. -/
theorem fire_ne_runEnded (u : Turn) (s : State) : fire u s ≠ .fault .runEnded := by
  cases u with
  | m =>
    simp only [fire, mStep]
    split
    · split
      · exact exec_ne_runEnded _ s
      · simp
    · simp
  | i f => exact exec_ne_runEnded _ s
  | e f => cases f <;> simp [fire]
  | test =>
    obtain ⟨t, e⟩ := tStep_next s
    simp [fire, e]

/-- The run has ended where FCAUSE is 0 and no agent is enabled. -/
theorem step_eq_runEnded_iff {s : State} (hok : s.cfg.blockOk = true) (hin : s.test.input = []) :
    step s = .fault .runEnded ↔ s.fcause = 0 ∧ ∀ t, s.enabled t = false := by
  rcases nextTurn_cases s with ⟨u, hu, hen⟩ | ⟨-, hdis⟩
  · have hne : step s ≠ .fault .runEnded := by
      simp only [step, hu]
      exact fire_ne_runEnded u _
    exact ⟨fun h => absurd h hne, fun ⟨_, h⟩ => by simp [h u] at hen⟩
  · rw [step_of_disabled hdis, and_iff_left hdis]
    simp only [noTurn, hok, hin]
    by_cases hc : s.fcause = 0 <;> simp [hc]

theorem isFinal_iff {s : State} : s.isFinal = true ↔
    (s.cfg.cmdStream.length ≤ s.cpc ∧ s.loc.busy = false ∧ s.fcause = 0) ∧
      (s.cfg.lineEndless = false ∧ s.cfg.lineIn.length ≤ s.linPos) ∧
      s.pending .rx = false ∧ s.pending .tx = false ∧ s.txrdy = true := by
  simp only [State.isFinal, State.mEnded, Bool.and_eq_true, Bool.not_eq_true', beq_iff_eq, decide_eq_true_eq]
  tauto

/-- With FCAUSE 0 and nothing presented on port T, the five conditions of R227 disable one agent's transition each. -/
theorem isFinal_iff_disabled {s : State} (hok : s.cfg.blockOk = true) (hin : s.test.input = []) :
    s.isFinal = true ↔ s.fcause = 0 ∧ ∀ t, s.enabled t = false := by
  have hm : s.fcause = 0 → (s.enabled .m = false ↔ s.cfg.cmdStream.length ≤ s.cpc ∧ s.loc.busy = false) := by
    intro hc
    rw [Bool.eq_false_iff, ne_eq, enabled_m]
    simp [hok, hc, and_comm]
  have hi := enabled_handler hok
  have her : s.enabled (.e .rx) = false ↔ s.cfg.lineEndless = false ∧ s.cfg.lineIn.length ≤ s.linPos := by
    rw [Bool.eq_false_iff, ne_eq, enabled_eRx_iff]
    simp [hok]
  have het : s.enabled (.e .tx) = false ↔ s.txrdy = true := by simp [State.enabled, hok]
  rw [isFinal_iff]
  constructor
  · rintro ⟨⟨hcpc, hb, hc⟩, hline, hrx, htx, hrdy⟩
    refine ⟨hc, fun t => ?_⟩
    cases t with
    | m => exact (hm hc).mpr ⟨hcpc, hb⟩
    | i f => cases f with
      | rx => exact (hi .rx).trans hrx
      | tx => exact (hi .tx).trans htx
    | e f => cases f with
      | rx => exact her.mpr hline
      | tx => exact het.mpr hrdy
    | test => exact enabled_test_of_noInput hin
  · rintro ⟨hc, hdis⟩
    obtain ⟨hcpc, hb⟩ := (hm hc).mp (hdis _)
    exact ⟨⟨hcpc, hb, hc⟩, her.mp (hdis _), (hi .rx).symm.trans (hdis _), (hi .tx).symm.trans (hdis _),
      het.mp (hdis _)⟩

/-- Settles O53: both sides say that FCAUSE is 0 and no transition is enabled. -/
theorem finalStateEndsTheRun : Obligations.FinalStateEndsTheRun := by
  unfold Obligations.FinalStateEndsTheRun
  intro s hok hin
  have hend := (isFinal_iff_disabled hok hin).trans (step_eq_runEnded_iff hok hin).symm
  exact ⟨hend.symm.trans isFinal_iff, hend⟩

end Sys2Proof.Machine

/-! ## Completion of the spin-waits (70_reset_and_hazards.md)

A spin-wait that never ended would be a fair execution with its command in progress in every state. A rank that no
transition raises is constant from some state on, so agent M would go round the three labels of the wait from there on
and the handler that the wait is for would never make progress; fairness makes it run all the same. -/

namespace Sys2Proof.Machine

/-! ### A command in progress for ever -/

/-- What the completion claims promise: agent M is at a command boundary, or an access fault has stopped it. -/
def Ended (s : State) : Prop := s.loc.busy = false ∨ s.fcause = 0x02

theorem ended_accessFault {s : State} (h : s.fcause = 0) (a : Half) : Ended (raiseFault .accessFault a s) :=
  .inr (by rw [raiseFault_clear h]; rfl)

theorem Executing.not_ended {i : Instr} {s : State} (h : Executing i s) : ¬ Ended s := by
  simp [Ended, (running_eq_some.mp h.running).1, h.clear]

/-- A step of command `i` ends it, lowers the rank, or is a step of the spin-wait. -/
def Progresses (i : Instr) (rank : State → Nat) (Spin : State → State → Prop) : Prop :=
  ∀ s t, Invariant s → Executing i s → exec i s = .next t → Ended t ∨ Executing i t ∧ (rank t < rank s ∨ Spin s t)

/-- From state N on the rank is constant and every step of agent M is a step of the spin-wait. -/
structure Settled (rank : State → Nat) (Spin : State → State → Prop) (states : Nat → State) (turns : Nat → Turn)
    (N : Nat) : Prop where
  rank_eq {m : Nat} : N ≤ m → rank (states (m + 1)) = rank (states m)
  spin {m : Nat} : N ≤ m → turns m = .m → Spin (states m) (states (m + 1))

/-- A fair execution with command `i` in progress in every state. -/
structure Unending (i : Instr) (states : Nat → State) (turns : Nat → Turn) : Prop where
  execution : IsExecution states turns
  fair : Fair states turns
  invariant : ∀ m, Invariant (states m)
  executing : ∀ m, Executing i (states m)

section
variable {i : Instr} {states : Nat → State} {turns : Nat → Turn} {rank : State → Nat} {Spin : State → State → Prop}

/-- A command that makes progress by its own steps ends, or is in progress for ever: no other agent touches it. -/
theorem Progresses.unending (hp : Progresses i rank Spin) (hx : IsExecution states turns) (hf : Fair states turns)
    (hinv : Invariant (states 0)) (h0 : Executing i (states 0)) (hnever : ∀ m, ¬ Ended (states m)) :
    Unending i states turns := by
  have h : ∀ m, Invariant (states m) ∧ Executing i (states m) := by
    intro m
    induction m with
    | zero => exact ⟨hinv, h0⟩
    | succ m ih =>
      obtain ⟨hinv, h⟩ := ih
      obtain ⟨hen, hfire⟩ := hx m
      refine ⟨hinv.transition hen hfire, ?_⟩
      by_cases hu : turns m = .m
      · rw [hu] at hfire
        obtain ⟨ht, -⟩ := (hp _ _ hinv h ((mStep_running h.running).symm.trans hfire)).resolve_left (hnever _)
        exact ht
      · obtain ⟨hcfg, hloc, hfc, -⟩ := fire_keeps_agentM hu hfire
        exact ⟨hcfg ▸ h.accepted, hfc.trans h.clear, (running_congr hcfg hloc).trans h.running⟩
  exact ⟨hx, hf, fun m => (h m).1, fun m => (h m).2⟩

section
variable (h : Unending i states turns)
include h

theorem Unending.fire (m : Nat) : fire (turns m) (states m) = .next (states (m + 1)) := (h.execution m).2

theorem Unending.exec {m : Nat} (hm : turns m = .m) : exec i (states m) = .next (states (m + 1)) := by
  have hf := h.fire m
  rw [hm] at hf
  exact (mStep_running (h.executing m).running).symm.trans hf

theorem Unending.cfg_eq (m : Nat) : (states m).cfg = (states 0).cfg := by
  induction m with
  | zero => rfl
  | succ m ih => exact (fire_prog_cfg (h.fire m)).2.trans ih

/-- Agent M steps again after every state, and its locals are as they were there. -/
theorem Unending.next_mStep (k : Nat) : ∃ m, k ≤ m ∧ turns m = .m ∧ (states m).loc = (states k).loc := by
  have hen (m : Nat) : (states m).enabled .m = true :=
    enabled_m.mpr ⟨(h.executing m).accepted, (h.executing m).clear,
      .inl (running_eq_some.mp (h.executing m).running).1⟩
  obtain ⟨m, hkm, hm⟩ := h.fair.1 .agentM k
  have hturn : turns m = .m := hm.elim eq_of_beq fun hoff => absurd ((hoff .m rfl).symm.trans (hen m)) nofun
  obtain ⟨d, rfl⟩ := Nat.exists_eq_add_of_le hkm
  clear hm hkm
  induction d generalizing k with
  | zero => exact ⟨k, le_rfl, hturn, rfl⟩
  | succ d ih =>
    by_cases hk : turns k = .m
    · exact ⟨k, le_rfl, hk, rfl⟩
    · obtain ⟨m, hkm, hm, hloc⟩ := ih (k + 1) (by rwa [Nat.add_right_comm])
      exact ⟨m, by omega, hm, hloc.trans (fire_keeps_agentM hk (h.fire k)).2.1⟩

/-- A rank that no transition raises is constant from some state on, so that agent M's steps from there only spin. -/
theorem Unending.settles (hp : Progresses i rank Spin) (hspin : ∀ {s t}, Spin s t → rank t ≤ rank s)
    (hother : ∀ {u s t}, Invariant s → u ≠ .m → Machine.fire u s = .next t → rank t ≤ rank s) :
    ∃ N, Settled rank Spin states turns N := by
  have hM {m : Nat} (hm : turns m = .m) :
      rank (states (m + 1)) < rank (states m) ∨ Spin (states m) (states (m + 1)) :=
    ((hp _ _ (h.invariant m) (h.executing m) (h.exec hm)).resolve_left (h.executing (m + 1)).not_ended).2
  have hanti : Antitone (fun m => rank (states m)) := antitone_nat_of_succ_le fun m => by
    by_cases hm : turns m = .m
    · exact (hM hm).elim Nat.le_of_lt hspin
    · exact hother (h.invariant m) hm (h.fire m)
  obtain ⟨N, hN⟩ := WellFoundedLT.antitone_chain_condition hanti
  have heq {m : Nat} (hm : N ≤ m) : rank (states (m + 1)) = rank (states m) :=
    (hN (m + 1) (hm.trans (Nat.le_add_right m 1))).symm.trans (hN m hm)
  exact ⟨N, heq, fun hm hturn => (hM hturn).resolve_left (heq hm).not_lt⟩

/-- Where each step of agent M goes on to the label's successor, agent M steps again at every label after it. -/
theorem Unending.visits {N : Nat} {next : Label → Label}
    (hnext : ∀ m, N ≤ m → turns m = .m → (states (m + 1)).loc.label = next (states m).loc.label) (j : Nat) {k : Nat}
    (hk : N ≤ k) : ∃ m, k ≤ m ∧ turns m = .m ∧ (states m).loc.label = next^[j] (states k).loc.label := by
  induction j generalizing k with
  | zero =>
    obtain ⟨m, hkm, hm, hloc⟩ := h.next_mStep k
    exact ⟨m, hkm, hm, congrArg Locals.label hloc⟩
  | succ j ih =>
    obtain ⟨m, hkm, hm, hloc⟩ := h.next_mStep k
    obtain ⟨m', hmm', hm', hl⟩ := ih (k := m + 1) (by omega)
    exact ⟨m', by omega, hm', by rw [hl, hnext m (by omega) hm, hloc, Function.iterate_succ_apply]⟩

end

end

/-! ### What the other agents do to the two FIFOs -/

section
variable {u : Turn} {s t : State}

/-- A received byte waits in RXDR after every transfer from the line. -/
theorem eRx_rxc (h : s.rxc = true ∨ (s.cfg.lineAt s.linPos).isSome = true) : (eRx s).rxc = true := by
  unfold eRx
  cases hb : s.cfg.lineAt s.linPos with
  | none => simpa [hb] using h
  | some b => cases s.rxc <;> simp

/-- No agent but M writes RXIE; only TX_ISR changes TXF or makes the transmitter busy; only RX_ISR changes RXF or takes
a received byte. -/
theorem fire_fifos (hm : u ≠ .m) (h : fire u s = .next t) :
    t.rxie = s.rxie ∧
      (u ≠ .i .tx → t.txf = s.txf ∧ (s.txrdy = true → t.txrdy = true)) ∧
      (u ≠ .i .rx → t.rxf = s.rxf ∧ (s.rxc = true → t.rxc = true)) := by
  cases u with
  | m => exact absurd rfl hm
  | i f =>
    cases f with
    | rx =>
      obtain ⟨_, _, _, rfl⟩ := rxIsr_frame h
      exact ⟨rfl, fun _ => ⟨rfl, id⟩, absurd rfl⟩
    | tx =>
      obtain ⟨_, _, _, _, rfl⟩ := txIsr_frame h
      exact ⟨rfl, absurd rfl, fun _ => ⟨rfl, id⟩⟩
  | e f =>
    cases f with
    | rx =>
      cases h
      have hrxc : s.rxc = true → (eRx s).rxc = true := fun hc => eRx_rxc (.inl hc)
      obtain ⟨_, _, _, _, he⟩ := eRx_frame s
      rw [he] at hrxc ⊢
      exact ⟨rfl, fun _ => ⟨rfl, id⟩, fun _ => ⟨rfl, hrxc⟩⟩
    | tx =>
      cases h
      exact ⟨rfl, fun _ => ⟨rfl, fun _ => rfl⟩, fun _ => ⟨rfl, id⟩⟩
  | test =>
    rw [tStep_frame h]
    exact ⟨rfl, fun _ => ⟨rfl, id⟩, fun _ => ⟨rfl, id⟩⟩

theorem fire_rxie (hm : u ≠ .m) (h : fire u s = .next t) : t.rxie = s.rxie := (fire_fifos hm h).1

theorem fire_transmitter (hm : u ≠ .m) (hu : u ≠ .i .tx) (h : fire u s = .next t) :
    t.txf = s.txf ∧ (s.txrdy = true → t.txrdy = true) := by
  obtain ⟨-, htx, -⟩ := fire_fifos hm h
  exact htx hu

theorem fire_receiver (hm : u ≠ .m) (hu : u ≠ .i .rx) (h : fire u s = .next t) :
    t.rxf = s.rxf ∧ (s.rxc = true → t.rxc = true) := by
  obtain ⟨-, -, hrx⟩ := fire_fifos hm h
  exact hrx hu

end

/-! ### The backpressure loop of TX_WRITE (R174) -/

/-- A step of the backpressure loop: L2 with TXF full, L3 or L4. -/
inductive WriteSpin (s t : State) : Prop
  | full : s.loc.label = .l2 → s.txf.isFull s.cfg.txK = true → t = { s with txie := true, loc.label := .l3 } →
      WriteSpin s t
  | delay : s.loc.label = .l3 → t = { s with loc.label := .l4 } → WriteSpin s t
  | disable : s.loc.label = .l4 → t = { s with txie := false, loc.label := .l2 } → WriteSpin s t

/-- How many fetches and pushes a TX_WRITE still has before its source would run past the top, at most. -/
def writesLeft (l : Locals) : Nat :=
  match l.label with
  | .l0 => 2 * (topAddress + 2)
  | .l1 => 2 * (topAddress + 1 - bufferByte l.addr l.cnt) + 1
  | .l2 | .l3 | .l4 => 2 * max (topAddress + 1 - bufferByte l.addr l.cnt) 1
  | .l5 | .l3r0 | .l3r1 | .l3r2 => 0

/-- The rank of a TX_WRITE: the fetches and pushes left, then the bytes that TX_ISR still has to take from TXF. -/
def writeRank (s : State) : Nat := writesLeft s.loc * 2 ^ s.cfg.txK + s.txf.count s.cfg.txK

/-- A fetch or push outweighs the byte it may put into TXF. -/
theorem writeRank_lt {s t : State} (hk : 1 ≤ s.cfg.txK) (hcfg : t.cfg = s.cfg)
    (hleft : writesLeft t.loc < writesLeft s.loc) (hcount : t.txf.count s.cfg.txK ≤ s.txf.count s.cfg.txK + 1) :
    writeRank t < writeRank s := by
  have hsize : 2 ≤ 2 ^ s.cfg.txK := Nat.le_self_pow (by omega) 2
  have hmul := Nat.mul_le_mul_right (2 ^ s.cfg.txK) (Nat.succ_le_of_lt hleft)
  rw [Nat.succ_mul] at hmul
  simp only [writeRank, hcfg]
  omega

theorem one_le_txK_of_blockOk {c : Config} (h : c.blockOk = true) : 1 ≤ c.txK := by
  simp only [Config.blockOk, Bool.and_eq_true, decide_eq_true_eq] at h
  omega

theorem txWrite_progresses (sp : Space) (a n : Half) : Progresses (.txWrite sp a n) writeRank WriteSpin := by
  intro s t hinv h he
  have hk := one_le_txK_of_blockOk h.accepted
  rcases execTxWrite_cases he with ⟨hl, rfl⟩ | ⟨hl, rfl⟩ | ⟨hl, rfl⟩ | ⟨hl, rfl⟩ | ⟨hl, rfl⟩ | ⟨hl, rfl⟩
  · refine .inr ⟨{ h with }, .inl (writeRank_lt hk rfl ?_ (Nat.le_succ _))⟩
    simp only [writesLeft, hl, bufferByte]
    omega
  · rcases txFetch_cases s with ⟨-, -, e⟩ | ⟨-, ⟨ha, e⟩ | ⟨-, e⟩⟩ <;> rw [e]
    · refine .inr ⟨{ h with }, .inl (writeRank_lt hk rfl ?_ (Nat.le_succ _))⟩
      simp [writesLeft, hl]
    · refine .inr ⟨{ h with }, .inl (writeRank_lt hk rfl ?_ (Nat.le_succ _))⟩
      split_ifs <;> simp only [writesLeft, hl] <;> omega
    · exact .inl (ended_accessFault h.clear _)
  · rcases txPush_cases s with ⟨hf, e⟩ | ⟨hf, e⟩ <;> rw [e]
    · exact .inr ⟨{ h with }, .inr (.full hl hf rfl)⟩
    · refine .inr ⟨{ h with }, .inl (writeRank_lt hk rfl ?_ (RB.count_write hinv.txf hf _).le)⟩
      simp only [writesLeft, hl, bufferByte]
      omega
  · exact .inr ⟨{ h with }, .inr (.delay hl rfl)⟩
  · exact .inr ⟨{ h with }, .inr (.disable hl rfl)⟩
  · exact .inl (.inl rfl)

theorem WriteSpin.frame {s t : State} (h : WriteSpin s t) :
    t.cfg = s.cfg ∧ t.txf = s.txf ∧ t.txrdy = s.txrdy ∧ writesLeft t.loc = writesLeft s.loc := by
  rcases h with ⟨hl, -, rfl⟩ | ⟨hl, rfl⟩ | ⟨hl, rfl⟩ <;> simp [writesLeft, hl]

theorem WriteSpin.rank_eq {s t : State} (h : WriteSpin s t) : writeRank t = writeRank s := by
  obtain ⟨hcfg, htxf, -, hleft⟩ := h.frame
  simp only [writeRank, hcfg, htxf, hleft]

/-- TX_ISR takes at most one byte, and no other agent but M changes TXF. -/
theorem fire_txf_count {u : Turn} {s t : State} (hinv : Invariant s) (hm : u ≠ .m) (h : fire u s = .next t) :
    t.txf.count s.cfg.txK ≤ s.txf.count s.cfg.txK := by
  by_cases hu : u = .i .tx
  · subst hu
    rcases execTxIsr_cases h with ⟨-, rfl⟩ | ⟨he, rfl⟩
    · exact le_rfl
    · exact (Nat.le_succ _).trans (RB.count_read hinv.txf he).le
  · rw [(fire_transmitter hm hu h).1]

theorem fire_writeRank {u : Turn} {s t : State} (hinv : Invariant s) (hm : u ≠ .m) (h : fire u s = .next t) :
    writeRank t ≤ writeRank s := by
  obtain ⟨hcfg, hloc, -⟩ := fire_keeps_agentM hm h
  simp only [writeRank, hcfg, hloc]
  exact Nat.add_le_add_left (fire_txf_count hinv hm h) _

/-- The label after a step of the backpressure loop. -/
def spinNext : Label → Label
  | .l2 => .l3
  | .l3 => .l4
  | .l4 => .l2
  | l => l

theorem WriteSpin.next_label {s t : State} (h : WriteSpin s t) : t.loc.label = spinNext s.loc.label := by
  rcases h with ⟨hl, -, rfl⟩ | ⟨hl, rfl⟩ | ⟨hl, rfl⟩ <;> simp [hl, spinNext]

section
variable {sp : Space} {a n : Half} {states : Nat → State} {turns : Nat → Turn} {N : Nat}
  (h : Unending (.txWrite sp a n) states turns)
  (hs : Settled writeRank WriteSpin states turns N)
include h hs

/-- Agent M finds TXF full again and again. -/
theorem Unending.visits_full {k : Nat} (hk : N ≤ k) :
    ∃ m, k ≤ m ∧ (states m).txf.isFull (states m).cfg.txK = true ∧ (states (m + 1)).txie = true := by
  have hl2 : ∃ j, spinNext^[j] (states k).loc.label = .l2 := by
    obtain ⟨m, hkm, hm, hloc⟩ := h.next_mStep k
    rcases hs.spin (hk.trans hkm) hm with ⟨hl, -, -⟩ | ⟨hl, -⟩ | ⟨hl, -⟩ <;> rw [← hloc, hl]
    · exact ⟨0, rfl⟩
    · exact ⟨2, rfl⟩
    · exact ⟨1, rfl⟩
  obtain ⟨j, hj⟩ := hl2
  obtain ⟨m, hkm, hm, hl⟩ := h.visits (fun _ hm hturn => (hs.spin hm hturn).next_label) j hk
  rcases hs.spin (hk.trans hkm) hm with ⟨-, hfull, e⟩ | ⟨hl', -⟩ | ⟨hl', -⟩
  · exact ⟨m, hkm, hfull, by rw [e]⟩
  · exact absurd (hl'.symm.trans (hl.trans hj)) nofun
  · exact absurd (hl'.symm.trans (hl.trans hj)) nofun

/-- No byte enters or leaves TXF. -/
theorem Unending.txf_count_step {m : Nat} (hm : N ≤ m) :
    (states (m + 1)).txf.count (states 0).cfg.txK = (states m).txf.count (states 0).cfg.txK := by
  have hleft : writesLeft (states (m + 1)).loc = writesLeft (states m).loc := by
    by_cases hturn : turns m = .m
    · obtain ⟨-, -, -, hleft⟩ := (hs.spin hm hturn).frame
      exact hleft
    · rw [(fire_keeps_agentM hturn (h.fire m)).2.1]
  have hrank := hs.rank_eq hm
  simp only [writeRank, hleft, h.cfg_eq] at hrank
  exact Nat.add_left_cancel hrank

theorem Unending.txf_count_eq {m : Nat} (hm : N ≤ m) :
    (states m).txf.count (states 0).cfg.txK = (states N).txf.count (states 0).cfg.txK :=
  Nat.le_induction rfl (fun _ hk ih => (h.txf_count_step hs hk).trans ih) m hm

/-- TXF is full from there on. -/
theorem Unending.txf_full {m : Nat} (hm : N ≤ m) :
    (states m).txf.count (states 0).cfg.txK + 1 = 2 ^ (states 0).cfg.txK := by
  obtain ⟨k, hk, hfull, -⟩ := h.visits_full hs le_rfl
  rw [h.txf_count_eq hs hm, ← h.txf_count_eq hs hk, ← h.cfg_eq k]
  exact (RB.isFull_iff (h.invariant k).txf).mp hfull

/-- TX_ISR does not run, for it would take a byte. -/
theorem Unending.no_txIsr {m : Nat} (hm : N ≤ m) : turns m ≠ .i .tx := by
  intro hturn
  have hfull := h.txf_full hs hm
  have hstep := h.txf_count_step hs hm
  have hsize : 2 ≤ 2 ^ (states 0).cfg.txK :=
    Nat.le_self_pow (Nat.one_le_iff_ne_zero.mp (one_le_txK_of_blockOk (h.executing 0).accepted)) 2
  have hwf := (h.invariant m).txf
  have hf := h.fire m
  rw [hturn] at hf
  rw [← h.cfg_eq m] at hfull hstep hsize
  rcases execTxIsr_cases hf with ⟨hempty, -⟩ | ⟨hne, e⟩
  · rw [RB.isEmpty_iff hwf] at hempty
    omega
  · rw [e] at hstep
    exact (Nat.lt_of_succ_le (RB.count_read hwf hne).le).ne hstep

/-- The transmitter is idle from some state on: E_TX sends the byte in TXDR, and no other takes its place. -/
theorem Unending.txrdy_eventually : ∃ r, N ≤ r ∧ ∀ m, r ≤ m → (states m).txrdy = true := by
  have hkeep : ∀ {m}, N ≤ m → (states m).txrdy = true → (states (m + 1)).txrdy = true := by
    intro m hm hrdy
    by_cases hturn : turns m = .m
    · obtain ⟨-, -, hsame, -⟩ := (hs.spin hm hturn).frame
      exact hsame.trans hrdy
    · exact (fire_transmitter hturn (h.no_txIsr hs hm) (h.fire m)).2 hrdy
  have hidle : ∃ r, N ≤ r ∧ (states r).txrdy = true := by
    obtain ⟨m, hm, hturn | hoff⟩ := h.fair.1 .eTx N
    · have hf := h.fire m
      rw [eq_of_beq hturn] at hf
      exact ⟨m + 1, by omega, by rw [← Host.Outcome.next.inj hf]; rfl⟩
    · refine ⟨m, hm, ?_⟩
      simpa [State.enabled, (h.executing m).accepted] using hoff (.e .tx) rfl
  obtain ⟨r, hr, hrdy⟩ := hidle
  exact ⟨r, hr, Nat.le_induction hrdy fun k hk => hkeep (hr.trans hk)⟩

end

/-- TX_WRITE does not run for ever: TX_ISR, enabled after every step that finds TXF full, would not run. -/
theorem not_unending_txWrite {sp : Space} {a n : Half} {states : Nat → State} {turns : Nat → Turn} :
    ¬ Unending (.txWrite sp a n) states turns := by
  intro h
  obtain ⟨N, hs⟩ := h.settles (txWrite_progresses sp a n) (fun hspin => (WriteSpin.rank_eq hspin).le) fire_writeRank
  obtain ⟨r, hr, hrdy⟩ := h.txrdy_eventually hs
  have hoften : ∀ k, ∃ m, k ≤ m ∧ (states m).enabled (.i .tx) = true := by
    intro k
    obtain ⟨m, hm, -, hie⟩ := h.visits_full hs (k := max k r) (by omega)
    refine ⟨m + 1, by omega, enabled_txIsr_iff.mpr ⟨(h.executing _).accepted, ?_, hie, hrdy _ (by omega)⟩⟩
    exact (h.invariant _).control.inited (h.executing _).running rfl
  obtain ⟨m, hm, hturn⟩ := h.fair.2 .tx hoften N
  exact h.no_txIsr hs hm hturn

/-- Settles O59: an execution without an end of the write would be `Unending`; one pass of the loop clears the TXIE
that it set. -/
theorem txWriteCompletesUnderFairness : Obligations.TxWriteCompletesUnderFairness := by
  unfold Obligations.TxWriteCompletesUnderFairness
  refine ⟨fun states turns sp a n hinv hclear hok hx hf hr => ?_, fun s sp a n hinv hok hclear hr hl hfull => ?_⟩
  · by_contra hnever
    exact not_unending_txWrite
      ((txWrite_progresses sp a n).unending hx hf hinv ⟨hok, hclear.1, hr⟩ (not_exists.mp hnever))
  · have h : Executing (.txWrite sp a n) s := ⟨hok, hclear, hr⟩
    have hie : s.txie = false := hinv.guards _ .tx hr (by rw [hl]; rfl)
    have hpush := (exec_txWrite_push (sp := sp) (a := a) (n := n) hl).trans
      (congrArg _ (txPush_full ((RB.isFull_iff_contents hinv.txf).mpr hfull)))
    refine h.runTurns_cons hpush (Executing.runTurns_cons { h with } (exec_txWrite_delay rfl)
      (Executing.runTurns_cons { h with } (exec_txWrite_disable rfl) ?_))
    rw [← hie, ← hl]
    rfl

/-- The spinning execution neither ends the write nor faults. -/
theorem spin_busy_and_clear : ∀ m, (Tests.spin m).loc.busy = true ∧ (Tests.spin m).fcause = 0
  | 0 => ⟨rfl, rfl⟩
  | 1 => ⟨rfl, rfl⟩
  | 2 => ⟨rfl, rfl⟩
  | m + 3 => spin_busy_and_clear m

/-- Refutes O35: `Tests.spin` is a TX_WRITE in which agent M alone goes round L2, L3 and L4 with TXF full and the line
idle, and weak fairness asks for no other step, since agent I is disabled at every L2. -/
theorem not_txWriteCompletesUnderWeakFairness : ¬ Obligations.TxWriteCompletesUnderWeakFairness := by
  unfold Obligations.TxWriteCompletesUnderWeakFairness
  intro h
  obtain ⟨hinv, hclear, hline, hfin, hx, hfair, hr⟩ := Tests.witness_TxWriteCompletesUnderWeakFairness
  obtain ⟨m, hend⟩ := h Tests.spin (fun _ => .m) .data 0x0300 1 hinv hclear hline hfin hx hfair hr
  obtain ⟨hbusy, hfc⟩ := spin_busy_and_clear m
  exact hend.elim (fun hb => absurd (hb.symm.trans hbusy) nofun) (fun hf => hf hfc)

/-! ### The poll of RX_READ_EXACT (R150) -/

/-- A step of a poll that has not found enough bytes. -/
inductive PollSpin (s t : State) : Prop
  | enter (a n : Half) : s.loc.label = .l0 →
      t = { s with rxie := false, loc := { s.loc with addr := a, len := n, p2 := s.rxie, label := .l1 } } →
      PollSpin s t
  | count : s.loc.label = .l1 → t = { s with loc := { s.loc with cnt := s.rxf.count s.cfg.rxK, label := .l2 } } →
      PollSpin s t
  | again : s.loc.label = .l2 → s.loc.cnt < s.loc.len.toNat →
      t = { s with rxie := s.loc.p2, loc.label := .l0 } → PollSpin s t

/-- The rank of an RX_READ_EXACT: the room left in RXF during the poll, below it the bytes left to read. -/
def readRank (s : State) : Nat :=
  match s.loc.label with
  | .l0 | .l1 | .l2 => topAddress + 2 + (2 ^ s.cfg.rxK - s.rxf.count s.cfg.rxK)
  | .l3r0 => topAddress + 2
  | .l3r1 => s.loc.lim.toNat - s.loc.cnt + 1
  | .l3r2 | .l3 | .l4 | .l5 => 0

theorem rxReadExact_progresses (a n : Half) : Progresses (.rxReadExact a n) readRank PollSpin := by
  intro s t hinv h he
  rcases execRxReadExact_cases he with
    ⟨hl, rfl⟩ | ⟨hl, rfl⟩ | ⟨hl, rfl⟩ | ⟨hl, rfl⟩ | ⟨hl, rfl⟩ | ⟨hl, hexit⟩
  · exact .inr ⟨{ h with }, .inr (.enter a n hl rfl)⟩
  · exact .inr ⟨{ h with }, .inr (.count hl rfl)⟩
  · refine .inr ⟨{ h with }, ?_⟩
    split_ifs with hlt
    · exact .inr (.again hl hlt rfl)
    · have := RB.count_lt hinv.rxf
      refine .inl ?_
      simp only [readRank, hl]
      omega
  · rcases readUntilEnter_cases s.loc.addr s.loc.len 0 .l3r1 s with ⟨hne, -⟩ | ⟨-, e⟩
    · exact absurd rfl hne
    · rw [e]
      have := s.loc.len.isLt
      refine .inr ⟨{ h with }, .inl ?_⟩
      simp only [readRank, hl, limitOf, if_true, topAddress]
      omega
  · obtain ⟨-, -, -, hcovered, -⟩ := hinv.exactRead a n h.clear h.running
    obtain ⟨hm, hlim, hle, -⟩ := hcovered hl
    rcases readUntilPass_cases .l3r1 .l3r2 s with ⟨-, e⟩ | ⟨hne, -, ⟨hs, -⟩ | ⟨-, -, e⟩ | ⟨-, -, e⟩⟩
    · rw [e]
      exact .inr ⟨{ h with }, .inl (by simp [readRank, hl])⟩
    · exact absurd (hs.symm.trans hm) nofun
    · rw [e]
      have := s.loc.lim.isLt
      have hlt : s.loc.cnt < s.loc.lim.toNat := by rw [hlim] at hne ⊢; omega
      refine .inr ⟨{ h with }, .inl ?_⟩
      simp only [readRank, hl, Nat.mod_eq_of_lt (show s.loc.cnt + 1 < 2 ^ 16 by omega)]
      omega
    · rw [e]
      refine .inl (ended_accessFault ?_ _)
      exact h.clear
  · obtain ⟨-, -, -, -, hlast⟩ := hinv.exactRead a n h.clear h.running
    obtain ⟨hm, -⟩ := hlast hl
    rw [readUntilExit_binary hm] at hexit
    rcases hexit with hx | ⟨u, -, rfl⟩
    · cases hx
    · exact .inl (.inl rfl)

theorem PollSpin.frame {s t : State} (h : PollSpin s t) :
    t.cfg = s.cfg ∧ t.rxf = s.rxf ∧ t.rxc = s.rxc ∧ readRank t = readRank s := by
  rcases h with ⟨a, n, hl, rfl⟩ | ⟨hl, rfl⟩ | ⟨hl, -, rfl⟩ <;> simp [readRank, hl]

theorem PollSpin.rank_eq {s t : State} (h : PollSpin s t) : readRank t = readRank s := by
  obtain ⟨-, -, -, hrank⟩ := h.frame
  exact hrank

/-- RX_ISR adds at most one byte to RXF, and no other agent but M changes it. -/
theorem fire_readRank {u : Turn} {s t : State} (hinv : Invariant s) (hm : u ≠ .m) (h : fire u s = .next t) :
    readRank t ≤ readRank s := by
  obtain ⟨hcfg, hloc, -⟩ := fire_keeps_agentM hm h
  have hcount : s.rxf.count s.cfg.rxK ≤ t.rxf.count s.cfg.rxK := by
    by_cases hu : u = .i .rx
    · subst hu
      rcases execRxIsr_cases h with ⟨-, rfl⟩ | ⟨hf, rfl⟩
      · exact le_rfl
      · exact (Nat.le_succ _).trans (RB.count_write hinv.rxf hf _).ge
    · rw [(fire_receiver hm hu h).1]
  simp only [readRank, hcfg, hloc]
  cases s.loc.label <;> simp only [le_refl] <;> omega

theorem enabled_rxIsr_iff {s : State} : s.enabled (.i .rx) = true ↔
    s.cfg.blockOk = true ∧ s.inited = true ∧ s.rxie = true ∧ s.rxc = true := by
  simp [State.enabled, State.pending, State.ie, State.ready, and_assoc]

/-- The label after a step of the poll. -/
def pollNext : Label → Label
  | .l0 => .l1
  | .l1 => .l2
  | .l2 => .l0
  | l => l

theorem PollSpin.next_label {s t : State} (h : PollSpin s t) : t.loc.label = pollNext s.loc.label := by
  rcases h with ⟨_, _, hl, rfl⟩ | ⟨hl, rfl⟩ | ⟨hl, -, rfl⟩ <;> simp [hl, pollNext]

/-- The poll leaves RXIE = 1: it is set at L0, and at L1 and L2 its captured bit is. -/
def PollOpen (s : State) : Prop :=
  (s.loc.label = .l0 → s.rxie = true) ∧ (s.loc.label ∈ [Label.l1, .l2] → s.loc.p2 = true)

/-- At the labels of the read nothing is claimed of RXIE. -/
theorem PollOpen.of_read {s : State} (hl : s.loc.label ∈ [Label.l3r0, .l3r1, .l3r2]) : PollOpen s := by
  simp only [List.mem_cons, List.not_mem_nil, or_false] at hl
  rcases hl with hl | hl | hl <;> simp [PollOpen, hl]

theorem PollOpen.exec {a n : Half} {s t : State} (h : PollOpen s) (he : exec (.rxReadExact a n) s = .next t) :
    PollOpen t := by
  obtain ⟨hie, hp⟩ := h
  rcases execRxReadExact_cases he with
    ⟨hl, rfl⟩ | ⟨hl, rfl⟩ | ⟨hl, rfl⟩ | ⟨hl, rfl⟩ | ⟨hl, rfl⟩ | ⟨hl, hexit⟩
  · exact ⟨nofun, fun _ => hie hl⟩
  · exact ⟨nofun, fun _ => hp (by simp [hl])⟩
  · have hcaptured := hp (by simp [hl])
    exact ⟨fun _ => hcaptured, fun _ => hcaptured⟩
  · apply PollOpen.of_read
    rcases readUntilEnter_cases s.loc.addr s.loc.len 0 .l3r1 s with ⟨-, -, e⟩ | ⟨-, e⟩ <;> rw [e] <;> simp [hl]
  · apply PollOpen.of_read
    rcases readUntilPass_cases .l3r1 .l3r2 s with ⟨-, e⟩ | ⟨-, -, ⟨-, -, e⟩ | ⟨-, -, e⟩ | ⟨-, -, e⟩⟩ <;> rw [e] <;>
      simp [hl]
  · apply PollOpen.of_read
    rcases hexit with hx | ⟨u, hx, rfl⟩
    · obtain ⟨_, _, rfl⟩ := readUntilExit_error hx
      simp [hl]
    · obtain ⟨_, _, _, rfl⟩ := readUntilExit_ok_frame hx
      simp [hl]

/-- No other agent writes RXIE or agent M's locals. -/
theorem PollOpen.fire {u : Turn} {s t : State} (h : PollOpen s) (hm : u ≠ .m) (hf : fire u s = .next t) :
    PollOpen t := by
  obtain ⟨-, hloc, -⟩ := fire_keeps_agentM hm hf
  simpa only [PollOpen, hloc, fire_rxie hm hf] using h

section
variable {a n : Half} {states : Nat → State} {turns : Nat → Turn} {N : Nat}
  (h : Unending (.rxReadExact a n) states turns)
include h

theorem Unending.pollOpen (h0 : PollOpen (states 0)) (m : Nat) : PollOpen (states m) := by
  induction m with
  | zero => exact h0
  | succ m ih =>
    by_cases hturn : turns m = .m
    · exact ih.exec (h.exec hturn)
    · exact ih.fire hturn (h.fire m)

variable (hs : Settled readRank PollSpin states turns N)
include hs

/-- Agent M stays at the labels of the poll. -/
theorem Unending.polling {k : Nat} (hk : N ≤ k) :
    (states k).loc.label = .l0 ∨ (states k).loc.label = .l1 ∨ (states k).loc.label = .l2 := by
  obtain ⟨m, hkm, hm, hloc⟩ := h.next_mStep k
  rw [← hloc]
  rcases hs.spin (hk.trans hkm) hm with ⟨_, _, hl, -⟩ | ⟨hl, -⟩ | ⟨hl, -, -⟩
  · exact .inl hl
  · exact .inr (.inl hl)
  · exact .inr (.inr hl)

/-- Agent M starts the poll again and again. -/
theorem Unending.visits_poll {k : Nat} (hk : N ≤ k) : ∃ m, k ≤ m ∧ turns m = .m ∧ (states m).loc.label = .l0 := by
  have hl0 : ∃ j, pollNext^[j] (states k).loc.label = .l0 := by
    rcases h.polling hs hk with hl | hl | hl <;> rw [hl]
    · exact ⟨0, rfl⟩
    · exact ⟨2, rfl⟩
    · exact ⟨1, rfl⟩
  obtain ⟨j, hj⟩ := hl0
  rw [← hj]
  exact h.visits (fun _ hm hturn => (hs.spin hm hturn).next_label) j hk

/-- No byte enters or leaves RXF. -/
theorem Unending.rxf_count_step {m : Nat} (hm : N ≤ m) :
    (states (m + 1)).rxf.count (states 0).cfg.rxK = (states m).rxf.count (states 0).cfg.rxK := by
  have hpoll {k : Nat} (hk : N ≤ k) : readRank (states k) =
      topAddress + 2 + (2 ^ (states 0).cfg.rxK - (states k).rxf.count (states 0).cfg.rxK) := by
    rcases h.polling hs hk with hl | hl | hl <;> simp only [readRank, hl, h.cfg_eq]
  have hlt (k : Nat) : (states k).rxf.count (states 0).cfg.rxK < 2 ^ (states 0).cfg.rxK := by
    rw [← h.cfg_eq k]
    exact RB.count_lt (h.invariant k).rxf
  have hrank := hs.rank_eq hm
  rw [hpoll hm, hpoll (hm.trans (Nat.le_add_right m 1))] at hrank
  have := hlt m
  have := hlt (m + 1)
  omega

theorem Unending.rxf_count_eq {m : Nat} (hm : N ≤ m) :
    (states m).rxf.count (states 0).cfg.rxK = (states N).rxf.count (states 0).cfg.rxK :=
  Nat.le_induction rfl (fun _ hk ih => (h.rxf_count_step hs hk).trans ih) m hm

/-- RXF holds fewer than n bytes from there on, for every poll finds too few. -/
theorem Unending.rxf_short {m : Nat} (hm : N ≤ m) : (states m).rxf.count (states 0).cfg.rxK < n.toNat := by
  obtain ⟨p, hp, -, hl0⟩ := h.visits_poll hs le_rfl
  obtain ⟨k, hpk, hk, hl1⟩ := h.visits (fun _ hm hturn => (hs.spin hm hturn).next_label) 1 hp
  rw [hl0] at hl1
  have hNk : N ≤ k := hp.trans hpk
  have hcounted : (states (k + 1)).loc.label = .l2 ∧
      (states (k + 1)).loc.cnt = (states k).rxf.count (states 0).cfg.rxK := by
    rcases hs.spin hNk hk with ⟨_, _, hl, -⟩ | ⟨-, e⟩ | ⟨hl, -, -⟩
    · exact absurd (hl.symm.trans hl1) nofun
    · rw [e, h.cfg_eq]
      exact ⟨rfl, rfl⟩
    · exact absurd (hl.symm.trans hl1) nofun
  obtain ⟨hl2, hcnt⟩ := hcounted
  obtain ⟨q, hkq, hq, hloc⟩ := h.next_mStep (k + 1)
  rw [← hloc] at hl2 hcnt
  obtain ⟨hops, -⟩ := (h.invariant q).exactRead a n (h.executing q).clear (h.executing q).running
  obtain ⟨-, hlen⟩ := hops (by simp [hl2])
  rw [h.rxf_count_eq hs hm, ← h.rxf_count_eq hs hNk, ← hcnt, ← hlen]
  rcases hs.spin (by omega) hq with ⟨_, _, hl, -⟩ | ⟨hl, -⟩ | ⟨-, hlt, -⟩
  · exact absurd (hl.symm.trans hl2) nofun
  · exact absurd (hl.symm.trans hl2) nofun
  · exact hlt

section
variable (hn : n.toNat ≤ 2 ^ (states 0).cfg.rxK - 1)
include hn

/-- RX_ISR does not run, for it would find room and store a byte. -/
theorem Unending.no_rxIsr {m : Nat} (hm : N ≤ m) : turns m ≠ .i .rx := by
  intro hturn
  have hshort := h.rxf_short hs hm
  have hstep := h.rxf_count_step hs hm
  have hwf := (h.invariant m).rxf
  have hf := h.fire m
  rw [hturn] at hf
  rw [← h.cfg_eq m] at hshort hstep hn
  rcases execRxIsr_cases hf with ⟨hfull, -⟩ | ⟨hroom, e⟩
  · rw [RB.isFull_iff hwf] at hfull
    omega
  · rw [congrArg State.rxf e, RB.count_write hwf hroom] at hstep
    omega

/-- A received byte waits from some state on: the sender delivers one, and no handler takes it. -/
theorem Unending.rxc_eventually (hsend : ∀ k, ∃ m, k ≤ m ∧ turns m = .e .rx) :
    ∃ r, N ≤ r ∧ ∀ m, r ≤ m → (states m).rxc = true := by
  have hkeep : ∀ {m}, N ≤ m → (states m).rxc = true → (states (m + 1)).rxc = true := by
    intro m hm hc
    by_cases hturn : turns m = .m
    · obtain ⟨-, -, hsame, -⟩ := (hs.spin hm hturn).frame
      exact hsame.trans hc
    · exact (fire_receiver hturn (h.no_rxIsr hs hn hm) (h.fire m)).2 hc
  obtain ⟨m, hm, hturn⟩ := hsend N
  have hdelivered : (states (m + 1)).rxc = true := by
    obtain ⟨hen, hf⟩ := h.execution m
    rw [hturn] at hen hf
    rw [← Host.Outcome.next.inj hf]
    refine eRx_rxc (.inr ?_)
    simpa [State.enabled, State.eRxEnabled, (h.executing m).accepted] using hen
  have hr : N ≤ m + 1 := by omega
  exact ⟨m + 1, hr, Nat.le_induction hdelivered fun k hk => hkeep (hr.trans hk)⟩

end

end

/-- RX_READ_EXACT does not run for ever: RX_ISR, enabled at every start of the poll, would not run. -/
theorem not_unending_rxReadExact {a n : Half} {states : Nat → State} {turns : Nat → Turn}
    (hsend : ∀ k, ∃ m, k ≤ m ∧ turns m = .e .rx) (hn : n.toNat ≤ 2 ^ (states 0).cfg.rxK - 1)
    (hopen : PollOpen (states 0)) : ¬ Unending (.rxReadExact a n) states turns := by
  intro h
  obtain ⟨N, hs⟩ := h.settles (rxReadExact_progresses a n) (fun hspin => (PollSpin.rank_eq hspin).le) fire_readRank
  obtain ⟨r, hr, hrxc⟩ := h.rxc_eventually hs hn hsend
  have hoften : ∀ k, ∃ m, k ≤ m ∧ (states m).enabled (.i .rx) = true := by
    intro k
    obtain ⟨m, hm, -, hl⟩ := h.visits_poll hs (k := max k r) (by omega)
    obtain ⟨hie, -⟩ := h.pollOpen hopen m
    refine ⟨m, by omega, enabled_rxIsr_iff.mpr ⟨(h.executing m).accepted, ?_, hie hl, hrxc m (by omega)⟩⟩
    exact (h.invariant m).control.inited (h.executing m).running rfl
  obtain ⟨m, hm, hturn⟩ := h.fair.2 .rx hoften N
  exact h.no_rxIsr hs hn hm hturn

/-- Settles O60: an execution without an end of the read would be `Unending`; a round of the poll that finds too few
bytes changes only agent M's locals, and the next round not even those. -/
theorem exactReadCompletesUnderFairness : Obligations.ExactReadCompletesUnderFairness := by
  unfold Obligations.ExactReadCompletesUnderFairness
  refine ⟨fun states turns a n hinv hclear hok hx hf hsend hr hn hie hp => ?_, fun s a n hok hclear hr hl hshort => ?_⟩
  · by_contra hnever
    exact not_unending_rxReadExact hsend hn ⟨hie, hp⟩
      ((rxReadExact_progresses a n).unending hx hf hinv ⟨hok, hclear.1, hr⟩ (not_exists.mp hnever))
  · have h : Executing (.rxReadExact a n) s := ⟨hok, hclear, hr⟩
    rw [RB.contents_length] at hshort
    have hl' : (exactPolled a n s).loc.label = .l0 := if_pos hshort
    exact ⟨(exactPolled a n s).loc, hl', hr, h.exactPoll hl rfl,
      Executing.exactPoll (s := exactPolled a n s) { h with } hl' rfl⟩

end Sys2Proof.Machine
